-- ==== Sys2Proof/Word.lean ====
section
/-! DEFINITION. The word types of the CHIP-8 core, under the widths of spec/10_state.md and the field widths of
spec/30_encoding.md rule R71. -/

namespace Sys2Proof

/-- An 8-bit quantity: a V register, a timer, a memory cell, the immediate `kk` (R6, R20, R71). -/
abbrev Byte := BitVec 8

/-- A 16-bit quantity: an instruction word, `pc`, `I`, a stack entry, the key latch (R6). -/
abbrev Word := BitVec 16

/-- A 4-bit field: the opcode class, a register index `x` or `y`, the immediate `n` (R71). -/
abbrev Nibble := BitVec 4

/-- The 12-bit absolute address field `nnn` (R71). -/
abbrev Addr12 := BitVec 12

/-- One display row, bit 63 the leftmost pixel (R29). -/
abbrev Row64 := BitVec 64

/-- One FRAME pixel (R155). -/
abbrev Pixel := BitVec 32

end Sys2Proof
end

