-- ==== Sys2Proof/Config.lean ====
section
/-! DEFINITION. What an implementation fixes, and the free values. The constants are those spec/00_scope.md rule R6 says
"a model takes as constants"; the parameters of rule R7 that have a default stand in Machine/Params.lean. The two opaque
constants have no body: no proof can see their values. -/

namespace Sys2Proof.Config

/-- MEM_SIZE (R6, R50). -/
def memSize : Nat := 4096

/-- PROGRAM_BASE, the load address of the ROM and the reset `pc` (R6, R202). -/
def programBase : Nat := 0x200

/-- ROM_MAX, the longest ROM that INIT admits (R201). -/
def romMax : Nat := 3584

/-- FONT_SIZE: the font occupies 0x000 to 0x04F (R6, R56). -/
def fontSize : Nat := 80

/-- PIXEL_ON, forced by "fully-opaque white" in any channel order (R7, R155). -/
def pixelOn : Pixel := 0xFFFFFFFF#32

/-- FREE VALUE (log entry 1): the byte the environment supplies for the n-th draw of RND (R7, R132, decision D9).
Nothing is known of it but its width. -/
opaque randomByte : Nat → Byte

/-- FREE VALUE (log entry 6): whether the alpha channel is the high byte of a pixel, which "the source does not say"
(R155, decision D13). -/
opaque alphaHigh : Bool

/-- The named parameter ALU_ALIAS_ORDER of R7 and R126 (decisions D5, D6): when the operands of a VF-writing
instruction are read, against its write of VF. -/
inductive AliasOrder where
  /-- Operands are read before VF is written (the spec's default). -/
  | operandsFirst
  /-- VF is written, then the result is computed from the registers as they then are. -/
  | sequential
  deriving DecidableEq, Repr

end Sys2Proof.Config
end

