-- ==== Sys2Proof/Syntax.lean ====
section
/-! DEFINITION. The instruction set as syntax: one constructor per row of the opcode table, in the order of
spec/30_encoding.md rule R76, with the operand fields of rule R71; and the reasons a decoder rejects bytes (R78). -/

namespace Sys2Proof

/-- The 34 instructions of R76. `x`, `y` name V registers, `kk`, `n`, `nnn` are immediates (R73). -/
inductive Instr where
  /-- `00E0` CLS -/
  | cls
  /-- `00EE` RET -/
  | ret
  /-- `1nnn` JP nnn -/
  | jp (nnn : Addr12)
  /-- `2nnn` CALL nnn -/
  | call (nnn : Addr12)
  /-- `3xkk` SE Vx, kk -/
  | seImm (x : Nibble) (kk : Byte)
  /-- `4xkk` SNE Vx, kk -/
  | sneImm (x : Nibble) (kk : Byte)
  /-- `5xy0` SE Vx, Vy -/
  | seReg (x y : Nibble)
  /-- `6xkk` LD Vx, kk -/
  | ldImm (x : Nibble) (kk : Byte)
  /-- `7xkk` ADD Vx, kk -/
  | addImm (x : Nibble) (kk : Byte)
  /-- `8xy0` LD Vx, Vy -/
  | ldReg (x y : Nibble)
  /-- `8xy1` OR Vx, Vy -/
  | orReg (x y : Nibble)
  /-- `8xy2` AND Vx, Vy -/
  | andReg (x y : Nibble)
  /-- `8xy3` XOR Vx, Vy -/
  | xorReg (x y : Nibble)
  /-- `8xy4` ADD Vx, Vy -/
  | addReg (x y : Nibble)
  /-- `8xy5` SUB Vx, Vy -/
  | sub (x y : Nibble)
  /-- `8xy6` SHR Vx; `y` is part of the word and ignored (R77) -/
  | shr (x y : Nibble)
  /-- `8xy7` SUBN Vx, Vy -/
  | subn (x y : Nibble)
  /-- `8xyE` SHL Vx; `y` is part of the word and ignored (R77) -/
  | shl (x y : Nibble)
  /-- `9xy0` SNE Vx, Vy -/
  | sneReg (x y : Nibble)
  /-- `Annn` LD I, nnn -/
  | ldI (nnn : Addr12)
  /-- `Bnnn` JP V0, nnn -/
  | jpV0 (nnn : Addr12)
  /-- `Cxkk` RND Vx, kk -/
  | rnd (x : Nibble) (kk : Byte)
  /-- `Dxyn` DRW Vx, Vy, n -/
  | drw (x y n : Nibble)
  /-- `Ex9E` SKP Vx -/
  | skp (x : Nibble)
  /-- `ExA1` SKNP Vx -/
  | sknp (x : Nibble)
  /-- `Fx07` LD Vx, DT -/
  | ldVxDT (x : Nibble)
  /-- `Fx0A` LD Vx, K -/
  | ldVxK (x : Nibble)
  /-- `Fx15` LD DT, Vx -/
  | ldDTVx (x : Nibble)
  /-- `Fx18` LD ST, Vx -/
  | ldSTVx (x : Nibble)
  /-- `Fx1E` ADD I, Vx -/
  | addI (x : Nibble)
  /-- `Fx29` LD F, Vx -/
  | ldF (x : Nibble)
  /-- `Fx33` LD B, Vx -/
  | ldB (x : Nibble)
  /-- `Fx55` LD [I], Vx -/
  | storeRegs (x : Nibble)
  /-- `Fx65` LD Vx, [I] -/
  | loadRegs (x : Nibble)
  deriving DecidableEq, Repr

/-- Why a decoder rejects its bytes: one name per row of the table of R78, and one for bytes that end inside a word. -/
inductive DecodeError where
  /-- Fewer than two bytes are left (R70: every instruction is two bytes). -/
  | truncated
  /-- Class 0x0, neither 0x00E0 nor 0x00EE. -/
  | illegalClass0 (w : Word)
  /-- Class 0x5 with a low nibble other than 0. -/
  | illegalClass5 (w : Word)
  /-- Class 0x8 with low nibble 8, 9, A, B, C, D or F. -/
  | illegalClass8 (w : Word)
  /-- Class 0x9 with a low nibble other than 0. -/
  | illegalClass9 (w : Word)
  /-- Class 0xE with a low byte other than 9E and A1. -/
  | illegalClassE (w : Word)
  /-- Class 0xF with a low byte outside 07, 0A, 15, 18, 1E, 29, 33, 55, 65. -/
  | illegalClassF (w : Word)
  deriving DecidableEq, Repr

end Sys2Proof
end

