-- ==== Sys2Proof/WellFormed.lean ====
section
/-! DEFINITION. What is well formed: an instruction, a row of the opcode table, the table as a whole, and the ROM that
INIT takes. -/

namespace Sys2Proof

/-- An instruction term is well formed when the table of R76 admits its operands. The operand types of `Instr` have the
exact widths of the fields (R71) and every value of every field is legal (R75: "Every value of the fields"), so the check
refuses no term: there is no ill-formed instruction to write down. -/
def Instr.wellFormed : Instr → Bool
  | .cls | .ret => true
  | .jp _ | .call _ | .ldI _ | .jpV0 _ => true
  | .seImm _ _ | .sneImm _ _ | .ldImm _ _ | .addImm _ _ | .rnd _ _ => true
  | .seReg _ _ | .sneReg _ _ | .ldReg _ _ | .orReg _ _ | .andReg _ _ | .xorReg _ _ => true
  | .addReg _ _ | .sub _ _ | .shr _ _ | .subn _ _ | .shl _ _ => true
  | .drw _ _ _ => true
  | .skp _ | .sknp _ | .ldVxDT _ | .ldVxK _ | .ldDTVx _ | .ldSTVx _ => true
  | .addI _ | .ldF _ | .ldB _ | .storeRegs _ | .loadRegs _ => true

/-- One row of the opcode table of R76: a word `w` is the row's instruction iff `(w AND mask) = pat` (R74). -/
structure OpcodeRow where
  pat : Word
  mask : Word
  deriving DecidableEq, Repr

/-- The word matches the row (R74). -/
def OpcodeRow.admits (r : OpcodeRow) (w : Word) : Bool := w &&& r.mask == r.pat

/-- A row is well formed when its pattern sets no bit outside its mask (else no word matches it). -/
def OpcodeRow.wellFormed (r : OpcodeRow) : Bool := r.pat &&& r.mask == r.pat

/-- No word matches both rows: they differ in a bit that both fix (R74, "the 34 rows are disjoint"). -/
def OpcodeRow.disjoint (r q : OpcodeRow) : Bool := (r.pat ^^^ q.pat) &&& (r.mask &&& q.mask) != 0

/-- A table is well formed when its rows are, and are pairwise disjoint. -/
abbrev OpcodeTable.WellFormed (t : List OpcodeRow) : Prop :=
  (∀ r ∈ t, r.wellFormed = true) ∧ t.Pairwise (fun r q => r.disjoint q = true)

/-- INIT admits a ROM of at most 3584 bytes (R201). -/
def Rom.wellFormed (rom : List Byte) : Bool := decide (rom.length ≤ Config.romMax)

end Sys2Proof
end

