-- ==== Sys2Proof/Decode.lean ====
section
/-! DEFINITION. The decoder, total on any bytes and rejecting by name; the encoder; the opcode table as data; and the
host's `decodeTableWord`. Written from spec/30_encoding.md rules R70 to R78. -/

namespace Sys2Proof

/-! ## Fields (R71) -/

/-- Opcode class, bits 15 to 12. -/
def fieldOp (w : Word) : Nibble := w.extractLsb' 12 4
/-- Register index x, bits 11 to 8. -/
def fieldX (w : Word) : Nibble := w.extractLsb' 8 4
/-- Register index y, bits 7 to 4. -/
def fieldY (w : Word) : Nibble := w.extractLsb' 4 4
/-- Small immediate n, bits 3 to 0. -/
def fieldN (w : Word) : Nibble := w.extractLsb' 0 4
/-- Byte immediate kk, bits 7 to 0. -/
def fieldKK (w : Word) : Byte := w.extractLsb' 0 8
/-- Address operand nnn, bits 11 to 0. -/
def fieldNNN (w : Word) : Addr12 := w.extractLsb' 0 12

/-! ## Decoding (R74, R75) -/

/-- Class 0x0: the whole word is matched (R75, decision D18, log entry 17). -/
def decodeClass0 (w : Word) : Except DecodeError Instr :=
  if w = 0x00E0#16 then .ok .cls
  else if w = 0x00EE#16 then .ok .ret
  else .error (.illegalClass0 w)

/-- Class 0x8, "keyed by low nibble" (R75; the nibble values are decision D16, log entry 15). -/
def decodeClass8 (w : Word) : Except DecodeError Instr :=
  let x := fieldX w
  let y := fieldY w
  match (fieldN w).toNat with
  | 0x0 => .ok (.ldReg x y)
  | 0x1 => .ok (.orReg x y)
  | 0x2 => .ok (.andReg x y)
  | 0x3 => .ok (.xorReg x y)
  | 0x4 => .ok (.addReg x y)
  | 0x5 => .ok (.sub x y)
  | 0x6 => .ok (.shr x y)
  | 0x7 => .ok (.subn x y)
  | 0xE => .ok (.shl x y)
  | _ => .error (.illegalClass8 w)

/-- Class 0xE, keyed by kk (R75). -/
def decodeClassE (w : Word) : Except DecodeError Instr :=
  match (fieldKK w).toNat with
  | 0x9E => .ok (.skp (fieldX w))
  | 0xA1 => .ok (.sknp (fieldX w))
  | _ => .error (.illegalClassE w)

/-- Class 0xF, "keyed by kk" (R75). -/
def decodeClassF (w : Word) : Except DecodeError Instr :=
  let x := fieldX w
  match (fieldKK w).toNat with
  | 0x07 => .ok (.ldVxDT x)
  | 0x0A => .ok (.ldVxK x)
  | 0x15 => .ok (.ldDTVx x)
  | 0x18 => .ok (.ldSTVx x)
  | 0x1E => .ok (.addI x)
  | 0x29 => .ok (.ldF x)
  | 0x33 => .ok (.ldB x)
  | 0x55 => .ok (.storeRegs x)
  | 0x65 => .ok (.loadRegs x)
  | _ => .error (.illegalClassF w)

/-- Decode one instruction word: "Dispatch by opcode class", then the further fixed bits (R74). It reads only the 16 bits
of the word. -/
def decodeWord (w : Word) : Except DecodeError Instr :=
  match (fieldOp w).toNat with
  | 0x0 => decodeClass0 w
  | 0x1 => .ok (.jp (fieldNNN w))
  | 0x2 => .ok (.call (fieldNNN w))
  | 0x3 => .ok (.seImm (fieldX w) (fieldKK w))
  | 0x4 => .ok (.sneImm (fieldX w) (fieldKK w))
  | 0x5 => if fieldN w = 0#4 then .ok (.seReg (fieldX w) (fieldY w)) else .error (.illegalClass5 w)
  | 0x6 => .ok (.ldImm (fieldX w) (fieldKK w))
  | 0x7 => .ok (.addImm (fieldX w) (fieldKK w))
  | 0x8 => decodeClass8 w
  | 0x9 => if fieldN w = 0#4 then .ok (.sneReg (fieldX w) (fieldY w)) else .error (.illegalClass9 w)
  | 0xA => .ok (.ldI (fieldNNN w))
  | 0xB => .ok (.jpV0 (fieldNNN w))
  | 0xC => .ok (.rnd (fieldX w) (fieldKK w))
  | 0xD => .ok (.drw (fieldX w) (fieldY w) (fieldN w))
  | 0xE => decodeClassE w
  | _ => decodeClassF w

/-- An instruction word from its two bytes as they lie in memory: big-endian, the byte at the lower address in bits 15 to
8 (R51, R70). -/
def wordOfBytes (hi lo : Byte) : Word := hi ++ lo

/-- The two bytes of a word as they lie in memory, lower address first (R51). -/
def bytesOfWord (w : Word) : List Byte := [w.extractLsb' 8 8, w.extractLsb' 0 8]

/-- Decode the first instruction of a list of bytes and give back the rest. Every instruction is two bytes (R70). -/
def decode : List Byte → Except DecodeError (Instr × List Byte)
  | hi :: lo :: rest =>
    match decodeWord (wordOfBytes hi lo) with
    | .ok i => .ok (i, rest)
    | .error e => .error e
  | _ => .error .truncated

/-! ## Encoding (R72, R76) -/

/-- Format NNN. -/
def formatNNN (op : Nibble) (nnn : Addr12) : Word := op ++ nnn
/-- Formats XKK and XFF (in XFF the byte is a fixed sub-opcode). -/
def formatXKK (op x : Nibble) (kk : Byte) : Word := (op ++ x : Byte) ++ kk
/-- Formats XYN and XYF (in XYF the last nibble is a fixed sub-opcode). -/
def formatXYN (op x y n : Nibble) : Word := (op ++ x : Byte) ++ (y ++ n : Byte)

/-- The instruction's word, from the table of R76. -/
def encode : Instr → Word
  | .cls => 0x00E0#16
  | .ret => 0x00EE#16
  | .jp nnn => formatNNN 0x1 nnn
  | .call nnn => formatNNN 0x2 nnn
  | .seImm x kk => formatXKK 0x3 x kk
  | .sneImm x kk => formatXKK 0x4 x kk
  | .seReg x y => formatXYN 0x5 x y 0x0
  | .ldImm x kk => formatXKK 0x6 x kk
  | .addImm x kk => formatXKK 0x7 x kk
  | .ldReg x y => formatXYN 0x8 x y 0x0
  | .orReg x y => formatXYN 0x8 x y 0x1
  | .andReg x y => formatXYN 0x8 x y 0x2
  | .xorReg x y => formatXYN 0x8 x y 0x3
  | .addReg x y => formatXYN 0x8 x y 0x4
  | .sub x y => formatXYN 0x8 x y 0x5
  | .shr x y => formatXYN 0x8 x y 0x6
  | .subn x y => formatXYN 0x8 x y 0x7
  | .shl x y => formatXYN 0x8 x y 0xE
  | .sneReg x y => formatXYN 0x9 x y 0x0
  | .ldI nnn => formatNNN 0xA nnn
  | .jpV0 nnn => formatNNN 0xB nnn
  | .rnd x kk => formatXKK 0xC x kk
  | .drw x y n => formatXYN 0xD x y n
  | .skp x => formatXKK 0xE x 0x9E
  | .sknp x => formatXKK 0xE x 0xA1
  | .ldVxDT x => formatXKK 0xF x 0x07
  | .ldVxK x => formatXKK 0xF x 0x0A
  | .ldDTVx x => formatXKK 0xF x 0x15
  | .ldSTVx x => formatXKK 0xF x 0x18
  | .addI x => formatXKK 0xF x 0x1E
  | .ldF x => formatXKK 0xF x 0x29
  | .ldB x => formatXKK 0xF x 0x33
  | .storeRegs x => formatXKK 0xF x 0x55
  | .loadRegs x => formatXKK 0xF x 0x65

/-- The instruction's bytes as they lie in memory. -/
def encodeBytes (i : Instr) : List Byte := bytesOfWord (encode i)

/-! ## The opcode table as data (R76) -/

/-- Rows 1 to 9 of R76. -/
def opcodeRowsLow : List OpcodeRow :=
  [⟨0x00E0, 0xFFFF⟩, ⟨0x00EE, 0xFFFF⟩, ⟨0x1000, 0xF000⟩, ⟨0x2000, 0xF000⟩, ⟨0x3000, 0xF000⟩, ⟨0x4000, 0xF000⟩,
   ⟨0x5000, 0xF00F⟩, ⟨0x6000, 0xF000⟩, ⟨0x7000, 0xF000⟩]

/-- Rows 10 to 18 of R76, class 0x8. -/
def opcodeRows8 : List OpcodeRow :=
  [⟨0x8000, 0xF00F⟩, ⟨0x8001, 0xF00F⟩, ⟨0x8002, 0xF00F⟩, ⟨0x8003, 0xF00F⟩, ⟨0x8004, 0xF00F⟩, ⟨0x8005, 0xF00F⟩,
   ⟨0x8006, 0xF00F⟩, ⟨0x8007, 0xF00F⟩, ⟨0x800E, 0xF00F⟩]

/-- Rows 19 to 34 of R76. -/
def opcodeRowsHigh : List OpcodeRow :=
  [⟨0x9000, 0xF00F⟩, ⟨0xA000, 0xF000⟩, ⟨0xB000, 0xF000⟩, ⟨0xC000, 0xF000⟩, ⟨0xD000, 0xF000⟩, ⟨0xE09E, 0xF0FF⟩,
   ⟨0xE0A1, 0xF0FF⟩, ⟨0xF007, 0xF0FF⟩, ⟨0xF00A, 0xF0FF⟩, ⟨0xF015, 0xF0FF⟩, ⟨0xF018, 0xF0FF⟩, ⟨0xF01E, 0xF0FF⟩,
   ⟨0xF029, 0xF0FF⟩, ⟨0xF033, 0xF0FF⟩, ⟨0xF055, 0xF0FF⟩, ⟨0xF065, 0xF0FF⟩]

/-- The 34 rows of R76, in its order. -/
def opcodeRows : List OpcodeRow := opcodeRowsLow ++ opcodeRows8 ++ opcodeRowsHigh

/-- The number of the instruction's row in R76, counted from 1. -/
def Instr.rowNumber : Instr → Nat
  | .cls => 1
  | .ret => 2
  | .jp _ => 3
  | .call _ => 4
  | .seImm _ _ => 5
  | .sneImm _ _ => 6
  | .seReg _ _ => 7
  | .ldImm _ _ => 8
  | .addImm _ _ => 9
  | .ldReg _ _ => 10
  | .orReg _ _ => 11
  | .andReg _ _ => 12
  | .xorReg _ _ => 13
  | .addReg _ _ => 14
  | .sub _ _ => 15
  | .shr _ _ => 16
  | .subn _ _ => 17
  | .shl _ _ => 18
  | .sneReg _ _ => 19
  | .ldI _ => 20
  | .jpV0 _ => 21
  | .rnd _ _ => 22
  | .drw _ _ _ => 23
  | .skp _ => 24
  | .sknp _ => 25
  | .ldVxDT _ => 26
  | .ldVxK _ => 27
  | .ldDTVx _ => 28
  | .ldSTVx _ => 29
  | .addI _ => 30
  | .ldF _ => 31
  | .ldB _ => 32
  | .storeRegs _ => 33
  | .loadRegs _ => 34

/-- The instruction's row of R76. -/
def Instr.row (i : Instr) : OpcodeRow := opcodeRows.getD (i.rowNumber - 1) ⟨0, 0⟩

/-! ## The host's reading of a table word -/

/-- The instruction this decoder reads from the table's word `w` of `nbits` bits. The table's rows have one 16-bit word,
whose bits the table numbers as R8 does; it is laid out in memory big-endian (R51). Bits of `w` at and above `nbits` are
taken as 0 (log entry 24). -/
def decodeTableWord (nbits w : Nat) : Option Instr :=
  match decode (bytesOfWord (BitVec.ofNat 16 (w % 2 ^ nbits))) with
  | .ok (i, _) => some i
  | .error _ => none

end Sys2Proof
end

