-- ==== Sys2Proof/Machine/Params.lean ====
section
/-! DEFINITION. The named parameters of spec/00_scope.md rule R7 at the spec's default or reference value. They stand under
Machine/ so that a later repair may mend a value a test shows wrong. Each is passed as an argument to the operation that
uses it (`State.timerUpdate`, `State.initialise`, `State.frameWith`, `State.flagOp`), so that a claim may quantify over it. -/

namespace Sys2Proof.Machine

/-- STEP_MS is `stepMsNum / stepMsDen` milliseconds: "2 ms at the reference 500 Hz cadence" (R7, decision D11).
DESIGN CHOICE, unsafe: log entry 4. -/
def stepMsNum : Nat := 2

/-- The denominator of STEP_MS; it also fixes the unit in which `State.ACC` counts, 1/(3 * stepMsDen) ms (log entry 3). -/
def stepMsDen : Nat := 1

/-- ALU_ALIAS_ORDER at the spec's default (R126, decisions D5, D6). UNVERIFIED of the software original, unsafe: log
entry 10. -/
def aluAliasOrder : Config.AliasOrder := .operandsFirst

/-- PIXEL_OFF: 0xFF000000 or 0x000000FF "according to whether the alpha channel is the high or the low byte" (R155); which
of the two is a free value (log entry 6). -/
def pixelOff : Pixel := if Config.alphaHigh then 0xFF000000#32 else 0x000000FF#32

/-- Glyphs 0 to 7 of the table of R203. -/
def fontLow : List Byte :=
  [0xF0, 0x90, 0x90, 0x90, 0xF0] ++ [0x20, 0x60, 0x20, 0x20, 0x70] ++ [0xF0, 0x10, 0xF0, 0x80, 0xF0] ++
  [0xF0, 0x10, 0xF0, 0x10, 0xF0] ++ [0x90, 0x90, 0xF0, 0x10, 0x10] ++ [0xF0, 0x80, 0xF0, 0x10, 0xF0] ++
  [0xF0, 0x80, 0xF0, 0x90, 0xF0] ++ [0xF0, 0x10, 0x20, 0x40, 0x40]

/-- Glyphs 8 to F of the table of R203. -/
def fontHigh : List Byte :=
  [0xF0, 0x90, 0xF0, 0x90, 0xF0] ++ [0xF0, 0x90, 0xF0, 0x10, 0xF0] ++ [0xF0, 0x90, 0xF0, 0x90, 0x90] ++
  [0xE0, 0x90, 0xE0, 0x90, 0xE0] ++ [0xF0, 0x80, 0x80, 0x80, 0xF0] ++ [0xE0, 0x90, 0x90, 0x90, 0xE0] ++
  [0xF0, 0x80, 0xF0, 0x80, 0xF0] ++ [0xF0, 0x80, 0xF0, 0x80, 0x80]

/-- FONT: the default table of R203 (decision D12), the standard CHIP-8 hexadecimal font. PRESUMED, unsafe: the spec itself
marks the bytes as general knowledge (log entry 5). -/
def font : List Byte := fontLow ++ fontHigh

end Sys2Proof.Machine
end

