-- ==== Sys2Proof/Machine/State.lean ====
section
/-! DEFINITION. The machine state of spec/10_state.md (R20 to R30) as plain data, the reset state (R33), the reasons a run
can stop, and the host's transactions (R5). -/

namespace Sys2Proof.Machine

/-- The 4096 cells of MEM (R30) as the list of those cells that differ from what an unlisted address reads as
(`Memory.blank` in Machine/Ops.lean), in strictly rising address order (log entry 19). -/
abbrev Memory := List Host.Cell

/-- One event of the DIAG output: the address the word was fetched from (before the fetch's +2) and the word (R181). It
leaves the block; no field of `State` holds one (R31 d). -/
structure DiagEvent where
  addr : Word
  word : Word
  deriving DecidableEq, Repr

/-- "The block has exactly the state below and no other" (10_state.md): the fields `V` to `MEM`, under the names of R9.
`draws` is the model's own: it holds no random byte (R31 a), only how many have been taken, so that each draw is fresh. What
R31 lists besides (FONT, STEP_MS, pixels, the DIAG stream, the ROM, wall time) has no field here. -/
structure State where
  /-- V0 to VF (R20); V[15] is VF (R21). -/
  V : Vector Byte 16
  /-- Program counter (R22). -/
  pc : Word
  /-- Index register (R23). -/
  I : Word
  /-- Stack pointer, the index of the next free entry (R24). -/
  SP : Nibble
  /-- Call stack (R24). -/
  STK : Vector Word 16
  /-- Delay timer (R25). -/
  DT : Byte
  /-- Sound timer (R25). -/
  ST : Byte
  /-- Display rows, row 0 first, bit 63 the leftmost pixel (R29). -/
  DISP : Vector Row64 32
  /-- Key latch, bit i = key i pressed (R26). -/
  KEYS : Word
  /-- Halt flag (R27). -/
  HALT : Bool
  /-- Timer accumulator (R28), exact, counted in units of 1/(3 * stepMsDen) ms: at STEP_MS = 2 it is the `A = 3 x ACC` of
  R185 point d (log entry 3). `State.accMs` is its value in milliseconds. -/
  ACC : Int
  /-- Memory (R30). -/
  MEM : Memory
  /-- The model's own: how many draws of RND have been taken (log entry 1). -/
  draws : Nat
  deriving DecidableEq, Repr

/-- The state after INIT with the empty ROM (R33 with L = 0, which R201 calls legal): no program is invented. MEM lists
nothing because an unlisted cell reads as the reset contents. `draws` starts at a DESIGN CHOICE value (log entry 1). -/
def State.reset : State where
  V := Vector.replicate 16 0
  pc := 0x0200
  I := 0
  SP := 0
  STK := Vector.replicate 16 0
  DT := 0
  ST := 0
  DISP := Vector.replicate 32 0
  KEYS := 0
  HALT := false
  ACC := 50 * (stepMsDen : Int)
  MEM := []
  draws := 0

/-- "The hardware has no exception, trap or fault" and "Every instruction and every transaction completes" (R180; R92): no
constructor, so nothing raises a fault. Safe: an outcome that does not exist cannot hide one that does (log entry 20). -/
inductive Fault
  deriving DecidableEq, Repr

/-- What the model gives no next state to. -/
inductive Refusal where
  /-- An arm of exec whose instruction has no meaning yet; no arm of this model answers it. Safe: the run stops. -/
  | notModelled (mnemonic : String)
  /-- Raised by `transact` for an INIT whose ROM is longer than 3584 bytes: "refused: no resulting state" (R201, decision
  D10). Safe: the run stops. -/
  | oversizedRom
  /-- Raised by `transact` for STEP, KEYS or FRAME before a first valid INIT, which "a model must not admit" (R32,
  decision D20). Safe: the run stops. -/
  | notInitialised
  deriving DecidableEq, Repr

/-- The four transactions of the block's interface, with what each carries in (R5). -/
inductive Transaction where
  /-- INIT (`initialize`) -/
  | init (rom : List Byte)
  /-- STEP (`step`) -/
  | step
  /-- KEYS (`update_keys`) -/
  | keys (mask : Word)
  /-- FRAME (`render_frame`) -/
  | frame
  deriving DecidableEq, Repr

/-- The block as the host sees it: before the first valid INIT, and after a refused one, it has no state (R32, R201); only
the model's own count of draws taken is kept then. -/
inductive Block where
  | uninit (draws : Nat)
  | ready (s : State)
  deriving DecidableEq, Repr

end Sys2Proof.Machine
end

