-- ==== Sys2Proof/Machine/Ops.lean ====
section
/-! DEFINITION. The named operations over memory, registers, the stack, the display and the outputs, each written once:
the primitives of spec/00_scope.md rules R9, R10 and spec/20_memory.md. The hardware has no exception entry and no return
from one (R180, R188, R189), so there is no such operation; its one report is `reportIllegal` (R182). -/

namespace Sys2Proof.Machine

/-! ## MEM (R30, R50, R52, R55) -/

/-- What a cell that no entry lists reads as: the reset contents with an empty ROM, the font at 0x000 to 0x04F and 0x00
elsewhere (R33, R56). -/
def Memory.blank (a : Nat) : Byte := font.getD a 0

/-- The byte in cell `a` (R55: the byte last written, with no side effect). -/
def Memory.read : Memory → Nat → Byte
  | [], a => Memory.blank a
  | c :: m, a => if c.1 = a then c.2 else Memory.read m a

/-- The list without an entry for cell `a`. -/
def Memory.erase (m : Memory) (a : Nat) : Memory := m.filter (fun c => c.1 != a)

/-- Insert an entry before the first one of a higher address. -/
def Memory.insert : Memory → Nat → Byte → Memory
  | [], a, v => [(a, v)]
  | c :: m, a, v => if a < c.1 then (a, v) :: c :: m else c :: Memory.insert m a v

/-- Write a byte to cell `a`, keeping the canonical form: a value the unlisted cell would read as removes the entry. -/
def Memory.write (m : Memory) (a : Nat) (v : Byte) : Memory :=
  if v = Memory.blank a then Memory.erase m a else Memory.insert (Memory.erase m a) a v

/-- Write a list of bytes to cells `a`, `a + 1`, ... in that order. -/
def Memory.writeList : Memory → Nat → List Byte → Memory
  | m, _, [] => m
  | m, a, b :: bs => Memory.writeList (Memory.write m a b) (a + 1) bs

/-- The canonical form: strictly rising addresses, all in 0 to 4095, and no entry equal to what the unlisted cell reads
as. -/
abbrev Memory.wf (m : Memory) : Prop :=
  m.Pairwise (fun c d => c.1 < d.1) ∧ ∀ c ∈ m, c.1 < Config.memSize ∧ c.2 ≠ Memory.blank c.1

/-- The cell a 16-bit address selects: the memory port takes it modulo 4096 (R52, decision D2, log entry 8). -/
def cellOf (addr : Word) : Nat := addr.toNat % Config.memSize

/-- `MemRead(addr, 1)` (R10). -/
def State.memRead (s : State) (addr : Word) : Byte := Memory.read s.MEM (cellOf addr)

/-- `MemWrite(addr, 1, v)` (R10). -/
def State.memWrite (s : State) (addr : Word) (v : Byte) : State :=
  { s with MEM := Memory.write s.MEM (cellOf addr) v }

/-- `MemRead(addr, 2)` (R10, R51): big-endian; only instruction fetch uses it. -/
def State.memRead2 (s : State) (addr : Word) : Word := wordOfBytes (s.memRead addr) (s.memRead (addr + 1))

/-! ## Registers -/

/-- Read `V[x]` (R20). -/
def State.readV (s : State) (x : Nibble) : Byte := s.V[x.toNat]

/-- `V[x] <- v` (R20). -/
def State.writeV (s : State) (x : Nibble) (v : Byte) : State := { s with V := s.V.set x.toNat v }

/-- `pc <- target` (R10). -/
def State.setPc (s : State) (target : Word) : State := { s with pc := target }

/-- `pc <- (pc + 2) mod 65536`: the fetch's advance, and a taken skip (R22, R104). -/
def State.advancePc (s : State) : State := { s with pc := s.pc + 2 }

/-- `I <- v` (R23). -/
def State.setI (s : State) (v : Word) : State := { s with I := v }

/-- `DT <- v` (R25). -/
def State.setDT (s : State) (v : Byte) : State := { s with DT := v }

/-- `ST <- v` (R25). -/
def State.setST (s : State) (v : Byte) : State := { s with ST := v }

/-- `KEYS <- mask` (R26). -/
def State.setKeys (s : State) (mask : Word) : State := { s with KEYS := mask }

/-- `HALT <- h` (R27). -/
def State.setHalt (s : State) (h : Bool) : State := { s with HALT := h }

/-! ## Call stack (R24; the slot is decision D15, log entry 14) -/

/-- `STK[i]`. -/
def State.stackEntry (s : State) (i : Nibble) : Word := s.STK[i.toNat]

/-- Push: `STK[SP] <- v`, then `SP <- (SP + 1) mod 16`. -/
def State.push (s : State) (v : Word) : State := { s with STK := s.STK.set s.SP.toNat v, SP := s.SP + 1 }

/-- Pop, the pointer's part: `SP <- (SP - 1) mod 16`. The entry popped is then `STK[SP]`, and is not cleared. -/
def State.dropTop (s : State) : State := { s with SP := s.SP - 1 }

/-! ## Display rows (R29) -/

/-- `DISP[r]`. -/
def State.row (s : State) (r : Fin 32) : Row64 := s.DISP[r]

/-- `DISP[r] <- w`. -/
def State.setRow (s : State) (r : Fin 32) (w : Row64) : State := { s with DISP := s.DISP.set r w }

/-- Every row set to zero (R151). -/
def State.clearRows (s : State) : State := { s with DISP := Vector.replicate 32 0 }

/-! ## Environment -/

/-- The byte the next draw of RND yields (R10 `draw RND`; free, log entry 1). -/
def State.nextDraw (s : State) : Byte := Config.randomByte s.draws

/-- The draw is taken: the next one is fresh. -/
def State.tookDraw (s : State) : State := { s with draws := s.draws + 1 }

/-- `report IllegalInstruction(addr, word)`: one event on the DIAG output; it "changes no state" (R10, R181, R182). -/
def reportIllegal (addr word : Word) : DiagEvent := ⟨addr, word⟩

/-! ## Output levels (R5) -/

/-- `SOUND_ON = (ST != 0)`. -/
def State.soundOn (s : State) : Bool := s.ST != 0

/-- `HALTED = HALT`. -/
def State.halted (s : State) : Bool := s.HALT

/-! ## For the host's question (log entry 18) -/

/-- The state with a 16-bit word stored where the next fetch reads it, and Running, which the fetch needs (R90: a halted
STEP fetches nothing). -/
def State.placeWord (s : State) (w : Word) : State :=
  ((s.memWrite s.pc (w.extractLsb' 8 8)).memWrite (s.pc + 1) (w.extractLsb' 0 8)).setHalt false

end Sys2Proof.Machine
end

