-- ==== Sys2Proof/Machine/Operands.lean ====
section
/-! DEFINITION. Operand forms: zero extension, the one data addressing mode, and how an instruction reads a number out of
a V register (spec/30_encoding.md rule R73, spec/43_index-memory.md rule R146). -/

namespace Sys2Proof.Machine

/-- `zext_16` of the 12-bit address operand (R10, R73). -/
def addrOperand (nnn : Addr12) : Word := nnn.setWidth 16

/-- `zext_16` of a byte (R10, R73). -/
def byteOperand (b : Byte) : Word := b.setWidth 16

/-- The effective address of index `k`: `I + k`, formed in 16 bits; the port reduces it modulo 4096 (R146, R52). -/
def State.indexed (s : State) (k : Nat) : Word := s.I + BitVec.ofNat 16 k

/-- The key number in Vx: `V[x] mod 16` (R166; decision D7, log entry 11). -/
def State.keyNumber (s : State) (x : Nibble) : Nat := (s.readV x).toNat % 16

/-- `KEYS[k] = 1` (R165). -/
def State.keyDown (s : State) (k : Nat) : Bool := s.KEYS.getLsbD k

/-- `lowest_set(m)`: the least i in 0..15 with `m[i] = 1` (R10), for m not 0; callers ask only then. -/
def lowestSet (m : Word) : Byte := BitVec.ofNat 8 (((List.range 16).find? (fun i => m.getLsbD i)).getD 0)

/-- The starting column of a sprite: `V[x] mod 64` (R152). -/
def State.spriteColumn (s : State) (x : Nibble) : Nat := (s.readV x).toNat % 64

/-- The starting row of a sprite: `V[y] mod 32` (R152). -/
def State.spriteRow (s : State) (y : Nibble) : Nat := (s.readV y).toNat % 32

/-- `rotr64(w, k)` for k in 0..63 (R10). -/
def rotr64 (w : Row64) (k : Nat) : Row64 := (w >>> k) ||| (w <<< (64 - k))

/-- A sprite byte as a row word: bit 7 lands on column `cx`, wrapping within the row (R152: `rotr64(b << 56, cx)`). -/
def spriteWord (b : Byte) (cx : Nat) : Row64 := rotr64 (b.setWidth 64 <<< 56) cx

end Sys2Proof.Machine
end

