-- ==== Sys2Proof/Machine/ControlFlow.lean ====
section
/-! DEFINITION. Control-flow instructions, spec/41_control-flow.md. On entry `pc` has already been advanced (R92): it holds
the address of the sequentially next instruction. -/

namespace Sys2Proof.Machine

/-- A conditional skip: "the skip adds exactly 2 to the already advanced `pc`" (R108 b). -/
def State.skipIf (c : Bool) (s : State) : State := if c then s.advancePc else s

/-- `00EE` RET (R100). -/
def execRet (s : State) : Host.Outcome State Fault Refusal :=
  let t := s.dropTop
  .next (t.setPc (t.stackEntry t.SP))

/-- `1nnn` JP nnn (R101). -/
def execJp (nnn : Addr12) (s : State) : Host.Outcome State Fault Refusal :=
  .next (s.setPc (addrOperand nnn))

/-- `2nnn` CALL nnn (R102): the advanced pc is pushed. -/
def execCall (nnn : Addr12) (s : State) : Host.Outcome State Fault Refusal :=
  .next ((s.push s.pc).setPc (addrOperand nnn))

/-- `Bnnn` JP V0, nnn (R103): the 16-bit sum is kept unmasked (decision D4, log entry 9). -/
def execJpV0 (nnn : Addr12) (s : State) : Host.Outcome State Fault Refusal :=
  .next (s.setPc (addrOperand nnn + byteOperand (s.readV 0)))

/-- `3xkk` SE Vx, kk (R104). -/
def execSeImm (x : Nibble) (kk : Byte) (s : State) : Host.Outcome State Fault Refusal :=
  .next (s.skipIf (s.readV x == kk))

/-- `4xkk` SNE Vx, kk (R105). -/
def execSneImm (x : Nibble) (kk : Byte) (s : State) : Host.Outcome State Fault Refusal :=
  .next (s.skipIf (s.readV x != kk))

/-- `5xy0` SE Vx, Vy (R106). -/
def execSeReg (x y : Nibble) (s : State) : Host.Outcome State Fault Refusal :=
  .next (s.skipIf (s.readV x == s.readV y))

/-- `9xy0` SNE Vx, Vy (R107). -/
def execSneReg (x y : Nibble) (s : State) : Host.Outcome State Fault Refusal :=
  .next (s.skipIf (s.readV x != s.readV y))

end Sys2Proof.Machine
end

