-- ==== Sys2Proof/Machine/Flags.lean ====
section
/-! DEFINITION. Every flag the spec computes, with the result computed beside it: pairs (flag, result) of the operand
values a = V[x], b = V[y] (spec/42_load-alu.md rules R127 to R131), and the one frame they run in (R126). -/

namespace Sys2Proof.Machine

/-- A flag value: 0x01 or 0x00 (R21). -/
def flagByte (b : Bool) : Byte := if b then 1 else 0

/-- `8xy4`: the flag is the carry of the 9-bit sum (R127). -/
def aluAdd (a b : Byte) : Byte × Byte := (flagByte (decide (a.toNat + b.toNat > 255)), a + b)

/-- `8xy5`: the flag is a > b, unsigned and strict (R128). -/
def aluSub (a b : Byte) : Byte × Byte := (flagByte (decide (a.toNat > b.toNat)), a - b)

/-- `8xy6`: the flag is the bit shifted out, bit 0 of a; b is unused (R129). -/
def aluShr (a _b : Byte) : Byte × Byte := (flagByte (a.getLsbD 0), a >>> 1)

/-- `8xy7`: the flag is b > a, unsigned and strict (R130). -/
def aluSubn (a b : Byte) : Byte × Byte := (flagByte (decide (b.toNat > a.toNat)), b - a)

/-- `8xyE`: the flag is the bit shifted out, bit 7 of a; b is unused (R131). -/
def aluShl (a _b : Byte) : Byte × Byte := (flagByte (a.getLsbD 7), a <<< 1)

/-- The index of VF (R20). -/
abbrev vf : Nibble := 0xF

/-- The frame of the five flag-writing ALU instructions (R126), under the parameter ALU_ALIAS_ORDER (decision D5). With
`operandsFirst`: both operands are read, then `V[0xF] <- flag`, then `V[x] <- result`. With `sequential`: the flag is
written first and the result is computed from the registers as they then are. -/
def State.flagOp (o : Config.AliasOrder) (f : Byte → Byte → Byte × Byte) (x y : Nibble) (s : State) : State :=
  let p := f (s.readV x) (s.readV y)
  let s1 := s.writeV vf p.1
  match o with
  | .operandsFirst => s1.writeV x p.2
  | .sequential => s1.writeV x (f (s1.readV x) (s1.readV y)).2

end Sys2Proof.Machine
end

