-- ==== Sys2Proof/Machine/Display.lean ====
section
/-! DEFINITION. The display bitmap engine, spec/44_display.md: clear, sprite draw, and the FRAME transaction's output. -/

namespace Sys2Proof.Machine

/-- `00E0` CLS (R151). -/
def execCls (s : State) : Host.Outcome State Fault Refusal :=
  .next s.clearRows

/-- The row of the display that sprite row `r` lands on: `(cy + r) mod 32` (R152). -/
def spriteTarget (cy r : Nat) : Fin 32 := Fin.ofNat 32 (cy + r)

/-- One iteration of the loop of R152: the sprite byte at `I + r`, collision first, then XOR. -/
def State.drawRow (cx cy r : Nat) (s : State) : State :=
  let word := spriteWord (s.memRead (s.indexed r)) cx
  let target := spriteTarget cy r
  let old := s.row target
  let s1 := if word &&& old ≠ 0 then s.writeV vf 1 else s
  s1.setRow target (old ^^^ word)

/-- The first `k` iterations of the loop of R152, ascending; none when `k = 0`. -/
def State.drawFirst (cx cy : Nat) : Nat → State → State
  | 0, s => s
  | k + 1, s => State.drawRow cx cy k (State.drawFirst cx cy k s)

/-- The state whose V registers give the coordinates: under `operandsFirst` they are read before VF is cleared, under
`sequential` after (R152 reading d; decision D6, log entry 10). -/
def State.coordinateSource (o : Config.AliasOrder) (s : State) : State :=
  match o with
  | .operandsFirst => s
  | .sequential => s.writeV vf 0

/-- Draw an n-row sprite (R152): VF cleared, then the rows. I and MEM are not changed. -/
def State.drawSprite (o : Config.AliasOrder) (x y n : Nibble) (s : State) : State :=
  let c := s.coordinateSource o
  State.drawFirst (c.spriteColumn x) (c.spriteRow y) n.toNat (s.writeV vf 0)

/-- `Dxyn` DRW Vx, Vy, n (R152, R153). -/
def execDrw (x y n : Nibble) (s : State) : Host.Outcome State Fault Refusal :=
  .next (s.drawSprite aluAliasOrder x y n)

/-- Pixel (c, r): bit `63 - c` of `DISP[r]` (R29, R150); the boolean R155 says is exact for FRAME. -/
def State.pixel (s : State) (r : Fin 32) (c : Nat) : Bool := (s.row r).getLsbD (63 - c)

/-- The value FRAME returns, with the two pixel patterns as arguments: 2048 elements, element `64 * r + c` for pixel (c, r)
(R155; the order is decision D13, log entry 7). It is a function of the state and changes none of it (R156). -/
def State.frameWith (on off : Pixel) (s : State) : List Pixel :=
  (List.range 2048).map (fun k => if s.pixel (Fin.ofNat 32 (k / 64)) (k % 64) then on else off)

/-- The value FRAME returns (R155). -/
def State.frame (s : State) : List Pixel := s.frameWith Config.pixelOn pixelOff

end Sys2Proof.Machine
end

