-- ==== Sys2Proof/Machine/IndexMemory.lean ====
section
/-! DEFINITION. Index-register and memory-transfer instructions, spec/43_index-memory.md. Every address is `I + index`,
reduced at the memory port (R146, R52). -/

namespace Sys2Proof.Machine

/-- `Annn` LD I, nnn (R140). -/
def execLdI (nnn : Addr12) (s : State) : Host.Outcome State Fault Refusal :=
  .next (s.setI (addrOperand nnn))

/-- `Fx1E` ADD I, Vx (R141): modulo 65536, no flag (decision D3, log entry 9). -/
def execAddI (x : Nibble) (s : State) : Host.Outcome State Fault Refusal :=
  .next (s.setI (s.I + byteOperand (s.readV x)))

/-- `Fx29` LD F, Vx (R142): the formula is applied unmasked for Vx >= 16 too (decision D8, log entry 12). -/
def execLdF (x : Nibble) (s : State) : Host.Outcome State Fault Refusal :=
  .next (s.setI (5 * byteOperand (s.readV x)))

/-- `Fx33` LD B, Vx (R143): hundreds, tens, ones, one byte each. -/
def execLdB (x : Nibble) (s : State) : Host.Outcome State Fault Refusal :=
  let v := (s.readV x).toNat
  .next (((s.memWrite (s.indexed 0) (BitVec.ofNat 8 (v / 100))).memWrite (s.indexed 1) (BitVec.ofNat 8 (v / 10 % 10))).memWrite
    (s.indexed 2) (BitVec.ofNat 8 (v % 10)))

/-- The first `k` iterations of the store loop of R144, ascending: V0 to V(k-1), to `I`, `I + 1`, ... -/
def State.storeFirst : Nat → State → State
  | 0, s => s
  | k + 1, s =>
    let t := State.storeFirst k s
    t.memWrite (t.indexed k) (t.readV (BitVec.ofNat 4 k))

/-- The first `k` iterations of the load loop of R145, ascending. -/
def State.loadFirst : Nat → State → State
  | 0, s => s
  | k + 1, s =>
    let t := State.loadFirst k s
    t.writeV (BitVec.ofNat 4 k) (t.memRead (t.indexed k))

/-- `I <- (I + x + 1) mod 65536`: "the amount added to I is the field `x` plus one" (R144). -/
def State.bumpI (s : State) (x : Nibble) : State := s.setI (s.indexed (x.toNat + 1))

/-- `Fx55` LD [I], Vx (R144): V0 to Vx inclusive. -/
def execStoreRegs (x : Nibble) (s : State) : Host.Outcome State Fault Refusal :=
  .next ((State.storeFirst (x.toNat + 1) s).bumpI x)

/-- `Fx65` LD Vx, [I] (R145): V0 to Vx inclusive. -/
def execLoadRegs (x : Nibble) (s : State) : Host.Outcome State Fault Refusal :=
  .next ((State.loadFirst (x.toNat + 1) s).bumpI x)

end Sys2Proof.Machine
end

