-- ==== Sys2Proof/Machine/Keys.lean ====
section
/-! DEFINITION. Key-input and timer-register instructions and the KEYS transaction's effect, spec/45_keys-timers.md. -/

namespace Sys2Proof.Machine

/-- `Ex9E` SKP Vx (R166). -/
def execSkp (x : Nibble) (s : State) : Host.Outcome State Fault Refusal :=
  .next (s.skipIf (s.keyDown (s.keyNumber x)))

/-- `ExA1` SKNP Vx (R167). -/
def execSknp (x : Nibble) (s : State) : Host.Outcome State Fault Refusal :=
  .next (s.skipIf (!s.keyDown (s.keyNumber x)))

/-- `Fx07` LD Vx, DT (R168): DT after the timer update of this same step (R91). -/
def execLdVxDT (x : Nibble) (s : State) : Host.Outcome State Fault Refusal :=
  .next (s.writeV x s.DT)

/-- `Fx0A` LD Vx, K (R170): complete at once on a held key, else become Halted with `pc` at a + 2. -/
def execLdVxK (x : Nibble) (s : State) : Host.Outcome State Fault Refusal :=
  .next (if s.KEYS ≠ 0 then s.writeV x (lowestSet s.KEYS) else s.setHalt true)

/-- `Fx15` LD DT, Vx (R169). -/
def execLdDTVx (x : Nibble) (s : State) : Host.Outcome State Fault Refusal :=
  .next (s.setDT (s.readV x))

/-- `Fx18` LD ST, Vx (R171). -/
def execLdSTVx (x : Nibble) (s : State) : Host.Outcome State Fault Refusal :=
  .next (s.setST (s.readV x))

/-- The destination register of the pending `Fx0A`, re-read from memory: the low nibble of the byte at `pc - 2` (R172
reading b). -/
def State.pendingX (s : State) : Nibble := (s.memRead (s.pc - 2)).extractLsb' 0 4

/-- `KEYS(mask)` (R172): the latch is replaced always (decision D17, log entry 16); a wait is resolved if Halted and the
mask is nonzero. -/
def State.updateKeys (mask : Word) (s : State) : State :=
  let t := s.setKeys mask
  if s.HALT = true ∧ mask ≠ 0 then (t.writeV t.pendingX (lowestSet mask)).setHalt false else t

end Sys2Proof.Machine
end

