-- ==== Sys2Proof/Machine/LoadAlu.lean ====
section
/-! DEFINITION. Register load, arithmetic, logic, shift and random instructions, spec/42_load-alu.md. "register semantics
are 8-bit unless noted": all arithmetic wraps modulo 256 (R133). -/

namespace Sys2Proof.Machine

/-- `6xkk` LD Vx, kk (R120). -/
def execLdImm (x : Nibble) (kk : Byte) (s : State) : Host.Outcome State Fault Refusal :=
  .next (s.writeV x kk)

/-- `7xkk` ADD Vx, kk (R121): no flag. -/
def execAddImm (x : Nibble) (kk : Byte) (s : State) : Host.Outcome State Fault Refusal :=
  .next (s.writeV x (s.readV x + kk))

/-- `8xy0` LD Vx, Vy (R122). -/
def execLdReg (x y : Nibble) (s : State) : Host.Outcome State Fault Refusal :=
  .next (s.writeV x (s.readV y))

/-- `8xy1` OR Vx, Vy (R123): "no flag change". -/
def execOrReg (x y : Nibble) (s : State) : Host.Outcome State Fault Refusal :=
  .next (s.writeV x (s.readV x ||| s.readV y))

/-- `8xy2` AND Vx, Vy (R124): "no flag change". -/
def execAndReg (x y : Nibble) (s : State) : Host.Outcome State Fault Refusal :=
  .next (s.writeV x (s.readV x &&& s.readV y))

/-- `8xy3` XOR Vx, Vy (R125): "no flag change". -/
def execXorReg (x y : Nibble) (s : State) : Host.Outcome State Fault Refusal :=
  .next (s.writeV x (s.readV x ^^^ s.readV y))

/-- `8xy4` ADD Vx, Vy (R127, in the frame of R126). -/
def execAddReg (x y : Nibble) (s : State) : Host.Outcome State Fault Refusal :=
  .next (s.flagOp aluAliasOrder aluAdd x y)

/-- `8xy5` SUB Vx, Vy (R128, in the frame of R126). -/
def execSub (x y : Nibble) (s : State) : Host.Outcome State Fault Refusal :=
  .next (s.flagOp aluAliasOrder aluSub x y)

/-- `8xy6` SHR Vx (R129, in the frame of R126); y is read and unused. -/
def execShr (x y : Nibble) (s : State) : Host.Outcome State Fault Refusal :=
  .next (s.flagOp aluAliasOrder aluShr x y)

/-- `8xy7` SUBN Vx, Vy (R130, in the frame of R126). -/
def execSubn (x y : Nibble) (s : State) : Host.Outcome State Fault Refusal :=
  .next (s.flagOp aluAliasOrder aluSubn x y)

/-- `8xyE` SHL Vx (R131, in the frame of R126); y is read and unused. -/
def execShl (x y : Nibble) (s : State) : Host.Outcome State Fault Refusal :=
  .next (s.flagOp aluAliasOrder aluShl x y)

/-- `Cxkk` RND Vx, kk (R132): the draw is a free value, fresh at each execution (log entry 1). -/
def execRnd (x : Nibble) (kk : Byte) (s : State) : Host.Outcome State Fault Refusal :=
  .next (s.tookDraw.writeV x (s.nextDraw &&& kk))

end Sys2Proof.Machine
end

