-- ==== Sys2Proof/Machine/Timers.lean ====
section
/-! DEFINITION. The timer envelope of spec/60_exceptions.md rules R185 and R186, exact for every positive rational
STEP_MS = p/q: the accumulator counts units of 1/(3q) ms, so that STEP_MS is 3p units and the reload of 50/3 ms is 50q. -/

namespace Sys2Proof.Machine

/-- `Tick()`: each timer decremented if nonzero (R186). -/
def State.tick (s : State) : State :=
  { s with DT := if s.DT ≠ 0 then s.DT - 1 else s.DT, ST := if s.ST ≠ 0 then s.ST - 1 else s.ST }

/-- `ACC <- a`, in units. -/
def State.setAcc (s : State) (a : Int) : State := { s with ACC := a }

/-- `TimerUpdate()` for STEP_MS = p/q (R185): subtract; if strictly negative, tick and add the reload once. -/
def State.timerUpdate (p q : Nat) (s : State) : State :=
  let a := s.ACC - 3 * (p : Int)
  if a < 0 then s.tick.setAcc (a + 50 * (q : Int)) else s.setAcc a

/-- ACC in milliseconds when STEP_MS has denominator q (R28). -/
def State.accMs (q : Nat) (s : State) : Rat := (s.ACC : Rat) / (3 * (q : Rat))

end Sys2Proof.Machine
end

