-- ==== Sys2Proof/Machine/Cycle.lean ====
section
/-! DEFINITION. The step cycle of spec/40_step-cycle.md, with STEP_MS as an argument: timer update, the HALT test, fetch,
pc + 2, execute. A step gives two things: its outcome as a state, and what leaves the block on the DIAG output, which is no
part of the state (R31 d, R181). -/

namespace Sys2Proof.Machine

/-- `Execute(w, a)` (R92): the instruction `w` decodes to, or the illegal-instruction rule R182: one DIAG event and "no other
state change". -/
def execute (w a : Word) (s : State) : Host.Outcome State Fault Refusal × Option DiagEvent :=
  match decodeWord w with
  | .ok i => (exec i s, none)
  | .error _ => (.next s, some (reportIllegal a w))

/-- Points 3 to 5 of R90: fetch at `pc`, advance, execute. -/
def runOne (s : State) : Host.Outcome State Fault Refusal × Option DiagEvent :=
  execute (s.memRead2 s.pc) s.pc s.advancePc

/-- `STEP()` (R90) for STEP_MS = p/q: the timer update always, then one instruction unless HALT is set. -/
def cycle (p q : Nat) (s : State) : Host.Outcome State Fault Refusal × Option DiagEvent :=
  let t := s.timerUpdate p q
  if t.HALT then (.next t, none) else runOne t

/-- The outcome of a STEP. -/
def stepAt (p q : Nat) (s : State) : Host.Outcome State Fault Refusal := (cycle p q s).1

/-- The DIAG output of a STEP: "emitted at most once per STEP" (R181). -/
def diagAt (p q : Nat) (s : State) : Option DiagEvent := (cycle p q s).2

end Sys2Proof.Machine
end

