-- ==== Sys2Proof/Machine/Step.lean ====
section
/-! DEFINITION. One step of the machine: the STEP transaction of spec/40_step-cycle.md rule R90 at the model's STEP_MS; and
the state that fetches a given instruction next. -/

namespace Sys2Proof.Machine

/-- The STEP transaction (R90) at STEP_MS = stepMsNum / stepMsDen (log entry 4). -/
def step (s : State) : Host.Outcome State Fault Refusal := stepAt stepMsNum stepMsDen s

/-- `s` with the table's word `w` of `nbits` bits where the next step fetches (log entry 18). -/
def State.withFetchWord (s : State) (nbits w : Nat) : State := s.placeWord (BitVec.ofNat 16 (w % 2 ^ nbits))

end Sys2Proof.Machine
end

