-- ==== Sys2Proof/Machine/Transactions.lean ====
section
/-! DEFINITION. The host's four transactions on the block (spec/00_scope.md rule R5): INIT (spec/70_reset_and_hazards.md
R200, R201, R204), STEP, KEYS, FRAME; what each carries out; and a run of them in issue order (R184). -/

namespace Sys2Proof.Machine

/-- MEM after INIT(rom) with the font `fnt` (R200): every cell zero, the ROM from 0x200, the font from 0x000. (The zeroing
needs to write only the font's cells, since every other unlisted cell reads as zero.) -/
def initMemory (fnt rom : List Byte) : Memory :=
  Memory.writeList
    (Memory.writeList (Memory.writeList [] 0 (List.replicate Config.fontSize 0)) Config.programBase rom)
    0 (fnt.take Config.fontSize)

/-- The state INIT(rom) produces (R33, R200), with FONT and the denominator of STEP_MS as arguments; nothing of the old
state survives (R204). The model's own count of draws taken goes on (log entry 1). -/
def State.initialise (fnt : List Byte) (q : Nat) (rom : List Byte) (draws : Nat) : State :=
  { State.reset with ACC := 50 * (q : Int), MEM := initMemory fnt rom, draws := draws }

/-- The model's record of draws taken. -/
def Block.draws : Block → Nat
  | .uninit d => d
  | .ready s => s.draws

/-- INIT (R200): refused when the ROM is longer than 3584 bytes (R201, decision D10, log entry 13). -/
def Block.init (rom : List Byte) (b : Block) : Host.Outcome Block Fault Refusal :=
  if Rom.wellFormed rom then .next (.ready (State.initialise font stepMsDen rom b.draws)) else .refused .oversizedRom

/-- A state's outcome as a block's. -/
def liftOutcome : Host.Outcome State Fault Refusal → Host.Outcome Block Fault Refusal
  | .next s => .next (.ready s)
  | .fault f => .fault f
  | .refused r => .refused r

/-- One transaction (R5). STEP, KEYS and FRAME are not admitted before a first INIT (R32, decision D20, log entry 13). -/
def transact (t : Transaction) (b : Block) : Host.Outcome Block Fault Refusal :=
  match t, b with
  | .init rom, b => b.init rom
  | .step, .ready s => liftOutcome (step s)
  | .keys mask, .ready s => .next (.ready (s.updateKeys mask))
  | .frame, .ready s => .next (.ready s)
  | .step, .uninit _ => .refused .notInitialised
  | .keys _, .uninit _ => .refused .notInitialised
  | .frame, .uninit _ => .refused .notInitialised

/-- The values a transaction returns (R5): FRAME the 2048 pixel values, the others none. -/
def Block.reply (t : Transaction) (b : Block) : List Pixel :=
  match t, b with
  | .frame, .ready s => s.frame
  | _, _ => []

/-- What a transaction puts on the DIAG output (R5): a STEP "possibly one illegal-instruction report", the others nothing. -/
def Block.emits (t : Transaction) (b : Block) : Option DiagEvent :=
  match t, b with
  | .step, .ready s => diagAt stepMsNum stepMsDen s
  | _, _ => none

/-- The block after a transaction. A refused one leaves no state: after an oversized INIT "the state the block had before it
is to be regarded as lost (no later transaction is admitted until a valid INIT)" (R201). -/
def Block.after (t : Transaction) (b : Block) : Block :=
  match transact t b with
  | .next b' => b'
  | _ => .uninit b.draws

/-- The block after a sequence of transactions: "the host's issue order is the order of effect" (R184). -/
def Block.afterAll : List Transaction → Block → Block
  | [], b => b
  | t :: ts, b => Block.afterAll ts (Block.after t b)

/-- The block before anything has happened (R32). -/
def Block.powerOn : Block := .uninit 0

/-- The block with the output trace of its DIAG events beside it, oldest first: "A model records them in an output trace"
(R181). The trace stands outside the state (R31 d, log entry 2). -/
structure Recording where
  block : Block
  trace : List DiagEvent
  deriving DecidableEq, Repr

/-- A transaction, with what it puts on the DIAG output recorded. -/
def Recording.after (t : Transaction) (r : Recording) : Recording :=
  ⟨r.block.after t, r.trace ++ (r.block.emits t).toList⟩

/-- A sequence of transactions in issue order, recorded. -/
def Recording.afterAll : List Transaction → Recording → Recording
  | [], r => r
  | t :: ts, r => Recording.afterAll ts (r.after t)

end Sys2Proof.Machine
end

