-- ==== Sys2Proof/Safety.lean ====
section
/-! DEFINITION. The terms claims are made in: the parts of the state and when one is unchanged, which parts each
instruction may write (the table of spec/10_state.md rule R35), and the invariants of a run. -/

namespace Sys2Proof.Machine

/-! ## Parts of the state -/

/-- One piece of state: a register, a stack entry, a display row, a memory cell, ... -/
inductive Part where
  | v (x : Nibble)
  | pc
  | index
  | sp
  | stk (i : Nibble)
  | dt
  | st
  | row (r : Fin 32)
  | keys
  | halt
  | acc
  | cell (a : Nat)
  | draws
  deriving DecidableEq, Repr

/-- The part holds the same in both states; a memory cell is compared through the model's read of one byte. -/
def Part.same (p : Part) (s t : State) : Prop :=
  match p with
  | .v x => t.readV x = s.readV x
  | .pc => t.pc = s.pc
  | .index => t.I = s.I
  | .sp => t.SP = s.SP
  | .stk i => t.stackEntry i = s.stackEntry i
  | .dt => t.DT = s.DT
  | .st => t.ST = s.ST
  | .row r => t.row r = s.row r
  | .keys => t.KEYS = s.KEYS
  | .halt => t.HALT = s.HALT
  | .acc => t.ACC = s.ACC
  | .cell a => Memory.read t.MEM a = Memory.read s.MEM a
  | .draws => t.draws = s.draws

/-- Every part outside `changed` is unchanged: the frame of an operation. -/
def UnchangedBut (changed : Part → Prop) (s t : State) : Prop := ∀ p, ¬ changed p → p.same s t

/-- The parts an instruction may write when it executes in state `s` (the "written by" column of R35, with the addresses
of R54 and R152 computed as the meanings compute them). -/
def mayWrite (i : Instr) (s : State) (p : Part) : Prop :=
  match i with
  | .cls => ∃ r, p = .row r
  | .ret => p = .pc ∨ p = .sp
  | .jp _ => p = .pc
  | .call _ => p = .pc ∨ p = .sp ∨ p = .stk s.SP
  | .seImm _ _ => p = .pc
  | .sneImm _ _ => p = .pc
  | .seReg _ _ => p = .pc
  | .ldImm x _ => p = .v x
  | .addImm x _ => p = .v x
  | .ldReg x _ => p = .v x
  | .orReg x _ => p = .v x
  | .andReg x _ => p = .v x
  | .xorReg x _ => p = .v x
  | .addReg x _ => p = .v x ∨ p = .v vf
  | .sub x _ => p = .v x ∨ p = .v vf
  | .shr x _ => p = .v x ∨ p = .v vf
  | .subn x _ => p = .v x ∨ p = .v vf
  | .shl x _ => p = .v x ∨ p = .v vf
  | .sneReg _ _ => p = .pc
  | .ldI _ => p = .index
  | .jpV0 _ => p = .pc
  | .rnd x _ => p = .v x ∨ p = .draws
  | .drw _ y n => p = .v vf ∨ ∃ k, k < n.toNat ∧ p = .row (spriteTarget (s.spriteRow y) k)
  | .skp _ => p = .pc
  | .sknp _ => p = .pc
  | .ldVxDT x => p = .v x
  | .ldVxK x => if s.KEYS ≠ 0 then p = .v x else p = .halt
  | .ldDTVx _ => p = .dt
  | .ldSTVx _ => p = .st
  | .addI _ => p = .index
  | .ldF _ => p = .index
  | .ldB _ => ∃ k, k < 3 ∧ p = .cell (cellOf (s.indexed k))
  | .storeRegs x => p = .index ∨ ∃ k, k ≤ x.toNat ∧ p = .cell (cellOf (s.indexed k))
  | .loadRegs x => p = .index ∨ ∃ k : Nibble, k ≤ x ∧ p = .v k

/-! ## Invariants -/

/-- Halted, the latch is empty and `pc - 2` is the address of the `Fx0A` that halted it, still in MEM (R173). -/
def State.waitsOnKey (s : State) : Prop :=
  s.HALT = true → s.KEYS = 0 ∧ ∃ x, decodeWord (s.memRead2 (s.pc - 2)) = .ok (.ldVxK x)

/-- ACC lies between 0 and the reload of 50/3 ms, in units of 1/(3q) ms. -/
def State.accInRange (q : Nat) (s : State) : Prop := 0 ≤ s.ACC ∧ s.ACC ≤ 50 * (q : Int)

/-- What every transaction keeps: MEM in canonical form, a Halted state waiting on an `Fx0A`, ACC in its range. -/
structure State.Sound (q : Nat) (s : State) : Prop where
  memory : Memory.wf s.MEM
  wait : s.waitsOnKey
  envelope : s.accInRange q

/-- The invariant at the model's STEP_MS. -/
def State.Inv (s : State) : Prop := s.Sound stepMsDen

/-- The invariant of the block as the host sees it: before the first INIT there is no state to speak of. -/
def Block.Inv : Block → Prop
  | .uninit _ => True
  | .ready s => s.Inv

/-- The word the next running STEP fetches (R90, R51). -/
def State.fetched (s : State) : Word := s.memRead2 s.pc

/-- `k` STEPs in a row, each of which answers a next state; the transactions are the host's. -/
def Steps : Nat → State → State → Prop
  | 0, s, t => t = s
  | k + 1, s, t => ∃ u, step s = .next u ∧ Steps k u t

/-- How many ticks the first `k` timer updates after INIT hold at STEP_MS = 2: `ceil(3k/25) - 1` (R187). -/
def ticksIn (k : Nat) : Nat := (3 * k + 24) / 25 - 1

/-- How many ticks `k` timer updates hold at STEP_MS = 2 from an accumulator of `a` thirds of a millisecond, 0 <= a <= 50:
the least n with `a - 6k + 50n >= 0` (R185). -/
def ticksFrom (a k : Nat) : Nat := (6 * k + 49 - a) / 50

/-- Nested CALLs, one for each pair of the list: the first component is the return address, which is the already advanced pc
in which that CALL executes (R92, R102), the second its target. How the program gets from one call to the next is open: each
return address is arbitrary. -/
def Calls : List (Word × Addr12) → State → State → Prop
  | [], s, t => t = s
  | (r, nnn) :: cs, s, t => ∃ u, exec (.call nnn) (s.setPc r) = .next u ∧ Calls cs u t

/-- RETs one after another, one for each address of the list, which it leaves in `pc` in turn. -/
def Returns : List Word → State → State → Prop
  | [], s, t => t = s
  | a :: as, s, t => ∃ u, exec .ret s = .next u ∧ u.pc = a ∧ Returns as u t

/-- The states differ at most in the bits of I above bit 11 (R23). -/
def SameButIndexHigh (s t : State) : Prop := t = s.setI t.I ∧ t.I.toNat % 4096 = s.I.toNat % 4096

/-! ## Sprites, pixel by pixel -/

/-- The sprite at `I` in state `s` has a lit pixel on column `c` of row `r` when drawn `n` rows high with its top left
corner at column `cx`, row `cy`: bit `7 - j` of byte `k` lands on column `(cx + j) mod 64` of row `(cy + k) mod 32` (R152
reading a). -/
def State.spriteLit (s : State) (cx cy n : Nat) (r : Fin 32) (c : Nat) : Prop :=
  ∃ k j, k < n ∧ j < 8 ∧ r.val = (cy + k) % 32 ∧ c = (cx + j) % 64 ∧ (s.memRead (s.indexed k)).getLsbD (7 - j) = true

end Sys2Proof.Machine
end

