-- ==== Sys2Proof/Certificates/Slice0/Obligations.lean ====
section
/-! DEFINITION. The statements for the provers, from the numbered rules of spec/ file by file. Where a statement rests on a
choice the spec marks as its own decision, or on one of the model's, its docstring says so and names the log entry. -/

open Sys2Proof Sys2Proof.Machine

/-! ## Reset and the INIT transaction (10_state.md, 70_reset_and_hazards.md) -/

/-- R33, every row of its table, for every font of 80 bytes and every ROM of at most 3584 bytes, and every STEP_MS of
denominator q. -/
def Obligations.InitGivesTheResetTable : Prop :=
  ∀ (fnt rom : List Byte) (q d : Nat),
    fnt.length = 80 → rom.length ≤ 3584 → 0 < q →
    let s := State.initialise fnt q rom d
    (∀ x, s.readV x = 0) ∧ s.pc = 0x0200#16 ∧ s.I = 0 ∧ s.SP = 0 ∧ (∀ i, s.stackEntry i = 0) ∧
    s.DT = 0 ∧ s.ST = 0 ∧ (∀ r, s.row r = 0) ∧ s.KEYS = 0 ∧ s.HALT = false ∧ s.accMs q = 50 / 3 ∧
    (∀ (a : Nat) (h : a < fnt.length), Memory.read s.MEM a = fnt[a]) ∧
    (∀ a, 0x050 ≤ a → a ≤ 0x1FF → Memory.read s.MEM a = 0) ∧
    (∀ (i : Nat) (h : i < rom.length), Memory.read s.MEM (0x200 + i) = rom[i]) ∧
    (∀ a, 0x200 + rom.length ≤ a → a ≤ 0xFFF → Memory.read s.MEM a = 0) ∧
    s.soundOn = false ∧ s.halted = false

/-- The model's choice (log entries 18 and 19): `State.reset` is the state after INIT with the empty ROM, and a first INIT
with the empty ROM leads there. -/
def Obligations.ResetIsInitWithTheEmptyRom : Prop :=
  State.reset = State.initialise font stepMsDen [] 0 ∧
  transact (.init []) Block.powerOn = .next (.ready State.reset)

/-- R201 (decision D10, log entry 13): INIT is refused exactly when the ROM is longer than 3584 bytes, and then leaves no
state; otherwise it gives the state of R33 whatever the block was (R204). -/
def Obligations.InitRefusesOnlyAnOversizedRom : Prop :=
  ∀ (rom : List Byte) (b : Block),
    (3584 < rom.length →
      transact (.init rom) b = .refused .oversizedRom ∧ Block.after (.init rom) b = .uninit b.draws) ∧
    (rom.length ≤ 3584 →
      transact (.init rom) b = .next (.ready (State.initialise font stepMsDen rom b.draws)))

/-- R32 and R201 (decisions D10, D20, log entry 13): without a valid INIT no sequence of transactions gives the block a
state, and STEP, KEYS and FRAME are refused by name. -/
def Obligations.NothingRunsBeforeAValidInit : Prop :=
  ∀ (ts : List Transaction) (d : Nat),
    (∀ rom, Transaction.init rom ∈ ts → 3584 < rom.length) →
    Block.afterAll ts (.uninit d) = .uninit d ∧
    ∀ mask, transact .step (Block.afterAll ts (.uninit d)) = .refused .notInitialised ∧
      transact (.keys mask) (Block.afterAll ts (.uninit d)) = .refused .notInitialised ∧
      transact .frame (Block.afterAll ts (.uninit d)) = .refused .notInitialised

/-- The invariant of R173 and R185 holds at reset. `State.reset` itself and the canonical form of memory that the invariant
speaks of are the model's own choice (log entry 19); that ACC is exact is log entry 3. -/
def Obligations.ResetMeetsTheInvariant : Prop := State.reset.Inv

/-! ## Encoding (30_encoding.md) -/

/-- Decoding the bytes of an encoded instruction gives the instruction back, at every value of every operand, and leaves
the bytes that follow (R70 to R76; the class-8 nibbles are decision D16, log entry 15). -/
def Obligations.DecodeInvertsEncode : Prop :=
  ∀ (i : Instr) (rest : List Byte), i.wellFormed = true → decode (encodeBytes i ++ rest) = .ok (i, rest)

/-- Encoding what a word decodes to gives the word back (R71 to R76): so a word decodes to at most one instruction's encoding.
This holds only because the model's `shr` and `shl` carry the ignored field y of R77 (its choice, log entry 23) and because
class 0 is matched on all 16 bits (decision D18, log entry 17); the class-8 nibbles are decision D16 (log entry 15). -/
def Obligations.EncodeInvertsDecode : Prop :=
  ∀ (w : Word) (i : Instr), decodeWord w = .ok i → encode i = w

/-- R74: a word is the instruction whose row of R76 it matches, and only that row; a word that matches none is illegal. The
rows of class 8 and the full match of class 0 are decisions D16 and D18 (log entries 15 and 17). -/
def Obligations.DecodeAgreesWithTheTable : Prop :=
  (∀ (w : Word) (i : Instr), decodeWord w = .ok i →
    i.row ∈ opcodeRows ∧ i.row.admits w = true ∧ ∀ r ∈ opcodeRows, r.admits w = true → r = i.row) ∧
  (∀ (w : Word) (e : DecodeError), decodeWord w = .error e → ∀ r ∈ opcodeRows, r.admits w = false)

/-- R78: the illegal words, class by class (decisions D16 and D18 for classes 8 and 0, log entries 15 and 17). -/
def Obligations.IllegalWordsAreThoseOfTheTable : Prop :=
  ∀ w : Word, (∃ e, decodeWord w = .error e) ↔
    (fieldOp w = 0x0 ∧ fieldNNN w ≠ 0x0E0 ∧ fieldNNN w ≠ 0x0EE) ∨
    (fieldOp w = 0x5 ∧ fieldN w ≠ 0) ∨
    (fieldOp w = 0x8 ∧ fieldN w ∈ [(0x8 : Nibble), 0x9, 0xA, 0xB, 0xC, 0xD, 0xF]) ∨
    (fieldOp w = 0x9 ∧ fieldN w ≠ 0) ∨
    (fieldOp w = 0xE ∧ fieldKK w ∉ [(0x9E : Byte), 0xA1]) ∨
    (fieldOp w = 0xF ∧ fieldKK w ∉ [(0x07 : Byte), 0x0A, 0x15, 0x18, 0x1E, 0x29, 0x33, 0x55, 0x65])

/-- R74, R76: the table has 34 rows, each can be matched, and no two overlap. -/
def Obligations.OpcodeTableIsDisjoint : Prop :=
  opcodeRows.length = 34 ∧ OpcodeTable.WellFormed opcodeRows

/-- Words written out from R72 and R76 decode to the instructions they stand for: one word a family, and two illegal ones. That
8AB7 is SUBN and 8129 is illegal rests on the class-8 nibbles, which are PRESUMED (decision D16, log entry 15). -/
def Obligations.SampleWordsDecode : Prop :=
  decodeWord 0x00EE#16 = .ok .ret ∧ decodeWord 0x2210#16 = .ok (.call 0x210) ∧
  decodeWord 0x3A7F#16 = .ok (.seImm 0xA 0x7F) ∧ decodeWord 0x8AB7#16 = .ok (.subn 0xA 0xB) ∧
  decodeWord 0xC30F#16 = .ok (.rnd 0x3 0x0F) ∧ decodeWord 0xD125#16 = .ok (.drw 0x1 0x2 0x5) ∧
  decodeWord 0xE19E#16 = .ok (.skp 0x1) ∧ decodeWord 0xF255#16 = .ok (.storeRegs 0x2) ∧
  decodeWord 0x0123#16 = .error (.illegalClass0 0x0123) ∧ decodeWord 0x8129#16 = .error (.illegalClass8 0x8129)

/-! ## The step cycle (40_step-cycle.md) and the DIAG report (60_exceptions.md) -/

/-- R90, R92: when the two bytes at `pc` decode to an instruction and the core is Running, a step is that instruction's
meaning in the state whose timers have been updated and whose pc has been advanced by 2. STEP_MS is log entry 4's. -/
def Obligations.StepRunsTheDecodedInstruction : Prop :=
  ∀ (s : State) (i : Instr), s.HALT = false →
    decode [s.memRead s.pc, s.memRead (s.pc + 1)] = .ok (i, []) →
    step s = exec i (s.timerUpdate stepMsNum stepMsDen).advancePc

/-- R96: a step in the Halted state is exactly the timer update, whatever STEP_MS: nothing but ACC, DT and ST may change. -/
def Obligations.HaltedStepOnlyUpdatesTimers : Prop :=
  ∀ (s : State) (p q : Nat), s.HALT = true →
    ∃ t, stepAt p q s = .next t ∧ t = s.timerUpdate p q ∧
      UnchangedBut (fun c => c = .acc ∨ c = .dt ∨ c = .st) s t

/-- R182: an illegal word is one DIAG event of its address and word, which leaves the block, and otherwise a no-op with pc
advanced; the timer update of the same step stands. That the event carries the address before the advance is decision D14
(log entry 2). -/
def Obligations.IllegalWordIsReportedAndSkipped : Prop :=
  ∀ (s : State) (p q : Nat), s.HALT = false → (∀ i, decodeWord s.fetched ≠ .ok i) →
    ∃ t, stepAt p q s = .next t ∧ diagAt p q s = some ⟨s.pc, s.fetched⟩ ∧ t.pc = s.pc + 2 ∧
      UnchangedBut (fun c => c = .pc) (s.timerUpdate p q) t

/-- R92, R180: every step answers a next state: "no instruction can fail, block inside the step, fault". -/
def Obligations.EveryStepCompletes : Prop :=
  ∀ (s : State) (p q : Nat), ∃ t, stepAt p q s = .next t

/-- R94, R27, R173: a step never changes KEYS and never clears HALT, and sets it only by executing `Fx0A` with KEYS = 0. -/
def Obligations.OnlyFx0AHaltsAndNoStepResumes : Prop :=
  ∀ (s t : State), step s = .next t →
    t.KEYS = s.KEYS ∧ (s.HALT = true → t.HALT = true) ∧
    (t.HALT = true → s.HALT = true ∨ (s.KEYS = 0 ∧ ∃ x, decodeWord s.fetched = .ok (.ldVxK x)))

/-- R91 a: the timer update precedes the instruction: `Fx07` reads the DT of this step's update, and what `Fx15` and `Fx18`
write is not decremented by it. -/
def Obligations.TimerUpdatePrecedesTheInstruction : Prop :=
  ∀ (s : State) (x : Nibble), s.HALT = false →
    (decodeWord s.fetched = .ok (.ldVxDT x) →
      ∃ t, step s = .next t ∧ t.readV x = (s.timerUpdate stepMsNum stepMsDen).DT) ∧
    (decodeWord s.fetched = .ok (.ldDTVx x) → ∃ t, step s = .next t ∧ t.DT = s.readV x) ∧
    (decodeWord s.fetched = .ok (.ldSTVx x) → ∃ t, step s = .next t ∧ t.ST = s.readV x)

/-- R181, R182: a step emits an event exactly when it fetches an illegal word while Running, and then the one of the address
and the word (decision D14, log entry 2). Events are write-only: over any sequence of transactions the block goes as it would
with no trace kept, and the trace only grows, in issue order, by a list of at most one event a STEP that does not depend on
what was recorded before. The trace is kept beside the state, not in it (R31 d, log entry 2). -/
def Obligations.DiagEventsAreWriteOnly : Prop :=
  (∀ (s : State) (p q : Nat) (e : DiagEvent), diagAt p q s = some e ↔
    s.HALT = false ∧ (∀ i, decodeWord s.fetched ≠ .ok i) ∧ e = ⟨s.pc, s.fetched⟩) ∧
  (∀ (b : Block) (ts : List Transaction), ∃ e : List DiagEvent, e.length ≤ ts.count .step ∧
    ∀ l, Recording.afterAll ts ⟨b, l⟩ = ⟨Block.afterAll ts b, l ++ e⟩)

/-- R23 (decision D3, log entry 9): the bits of I above bit 11 are not observable: two states that differ only in them
stay so under every step. -/
def Obligations.IndexHighBitsAreUnobservable : Prop :=
  ∀ (s t s' : State), SameButIndexHigh s t → step s = .next s' → ∃ t', step t = .next t' ∧ SameButIndexHigh s' t'

/-! ## Timers (60_exceptions.md) -/

/-- R186: a tick decrements each timer if it is nonzero and never wraps; nothing else changes. -/
def Obligations.TickDecrementsEachNonzeroTimer : Prop :=
  ∀ s : State, s.tick.DT.toNat = s.DT.toNat - 1 ∧ s.tick.ST.toNat = s.ST.toNat - 1 ∧
    UnchangedBut (fun c => c = .dt ∨ c = .st) s s.tick

/-- R185 in milliseconds (exact arithmetic is decision D11, log entry 3), for every STEP_MS = p/q: subtract STEP_MS; if the
result is strictly negative, tick and add 50/3 once; otherwise only ACC changes. -/
def Obligations.TimerUpdateIsExactInMilliseconds : Prop :=
  ∀ (s : State) (p q : Nat), 0 < q →
    let t := s.timerUpdate p q
    let a : Rat := s.accMs q - (p : Rat) / (q : Rat)
    (a < 0 → t.accMs q = a + 50 / 3 ∧ t.DT = s.tick.DT ∧ t.ST = s.tick.ST) ∧
    (0 ≤ a → t.accMs q = a ∧ t.DT = s.DT ∧ t.ST = s.ST) ∧
    UnchangedBut (fun c => c = .acc ∨ c = .dt ∨ c = .st) s t

/-- R187 at the reference STEP_MS (log entries 3 and 4): from a full accumulator, whatever the program does, k steps leave
ACC where `ceil(3k/25) - 1` ticks put it. ACC counts thirds of a millisecond. -/
def Obligations.TickScheduleIsFixedByTheStepCount : Prop :=
  ∀ (s : State) (k : Nat), s.ACC = 50 → 1 ≤ k →
    ∃ t, Steps k s t ∧ t.ACC = 50 - 6 * (k : Int) + 50 * (ticksIn k : Int)

/-- R185 to R187, R96 (log entries 3 and 4): while Halted, k steps from any accumulator in its range tick as often as the
accumulator they start from demands, leave ACC where those ticks put it, and lower each timer by one a tick, floored at zero;
nothing else changes. -/
def Obligations.HaltedTimersFollowTheSchedule : Prop :=
  ∀ (s : State) (k : Nat), s.HALT = true → s.accInRange 1 →
    let n := ticksFrom s.ACC.toNat k
    ∃ t, Steps k s t ∧ t.HALT = true ∧ t.ACC = s.ACC - 6 * (k : Int) + 50 * (n : Int) ∧
      t.DT.toNat = s.DT.toNat - n ∧ t.ST.toNat = s.ST.toNat - n ∧
      UnchangedBut (fun c => c = .acc ∨ c = .dt ∨ c = .st) s t

/-- R187 (log entries 3 and 4): "The state of ACC after step k + 25 equals that after step k", from every value below the
reload. -/
def Obligations.EnvelopeRepeatsEvery25Steps : Prop :=
  ∀ s : State, 0 ≤ s.ACC → s.ACC < 50 → ∃ t, Steps 25 s t ∧ t.ACC = s.ACC

/-! ## Control flow (41_control-flow.md). `exec` runs in the state whose pc has already been advanced (R92). -/

/-- R101. -/
def Obligations.JpLoadsPc : Prop :=
  ∀ (nnn : Addr12) (s : State), encode (.jp nnn) &&& 0xF000#16 = 0x1000#16 ∧
    ∃ t, exec (.jp nnn) s = .next t ∧ t.pc.toNat = nnn.toNat ∧ UnchangedBut (fun c => c = .pc) s t

/-- R103: the sum is kept unmasked in the 16-bit pc and never wraps (decision D4, log entry 9). -/
def Obligations.JpV0AddsV0 : Prop :=
  ∀ (nnn : Addr12) (s : State),
    ∃ t, exec (.jpV0 nnn) s = .next t ∧ t.pc.toNat = nnn.toNat + (s.readV 0).toNat ∧ UnchangedBut (fun c => c = .pc) s t

/-- R102: the advanced pc is pushed into the slot SP names (decision D15, log entry 14), SP wraps modulo 16, pc is nnn. -/
def Obligations.CallPushesAndJumps : Prop :=
  ∀ (nnn : Addr12) (s : State),
    ∃ t, exec (.call nnn) s = .next t ∧ t.stackEntry s.SP = s.pc ∧ t.SP.toNat = (s.SP.toNat + 1) % 16 ∧
      t.pc.toNat = nnn.toNat ∧ UnchangedBut (fun c => c = .pc ∨ c = .sp ∨ c = .stk s.SP) s t

/-- R100: SP steps back modulo 16, with no underflow check, and pc is the entry it then names (decision D15, log entry 14),
which is not cleared. -/
def Obligations.RetPopsIntoPc : Prop :=
  ∀ s : State,
    ∃ t, exec .ret s = .next t ∧ t.SP.toNat = (s.SP.toNat + 15) % 16 ∧ t.pc = s.stackEntry t.SP ∧
      UnchangedBut (fun c => c = .pc ∨ c = .sp) s t

/-- R102: "`2nnn` (call) immediately followed by `00EE` (return) restores PC to the address immediately following the call
instruction"; SP too, and only the stack slot differs. That the slot is the one SP names on entry is decision D15 (log
entry 14). -/
def Obligations.CallThenReturnRestoresPc : Prop :=
  ∀ (nnn : Addr12) (s : State),
    ∃ t u, exec (.call nnn) s = .next t ∧ exec .ret t = .next u ∧ u.pc = s.pc ∧ u.SP = s.SP ∧
      UnchangedBut (fun c => c = .stk s.SP) s u

/-- R24, R102, R207: up to 16 nested calls, each with its own return address (the already advanced pc it executes in), unwind
in reverse order; after 16 SP is back where it was, and the 17th silently overwrites the oldest entry and no other. Which slot
a push writes, and so which one the 17th overwrites, is decision D15 (log entry 14). -/
def Obligations.SixteenCallsUnwindAndTheNextOverwrites : Prop :=
  (∀ (s : State) (cs : List (Word × Addr12)), cs.length ≤ 16 →
    ∃ t u, Calls cs s t ∧ Returns (cs.map Prod.fst).reverse t u ∧ u.SP = s.SP) ∧
  (∀ (s : State) (c : Word × Addr12) (cs : List (Word × Addr12)) (r : Word) (nnn : Addr12), cs.length = 15 →
    ∃ t u, Calls (c :: cs) s t ∧ t.SP = s.SP ∧ t.stackEntry s.SP = c.1 ∧ exec (.call nnn) (t.setPc r) = .next u ∧
      u.stackEntry s.SP = r ∧ u.SP = s.SP + 1 ∧ ∀ i, i ≠ s.SP → u.stackEntry i = t.stackEntry i)

/-- R104 to R107: the four register skips add 2 to the already advanced pc exactly when their comparison holds, and change
nothing else; a step that runs one puts nothing on the DIAG output, whatever the skipped word is. -/
def Obligations.CompareSkipsAdvancePc : Prop :=
  ∀ (x y : Nibble) (kk : Byte) (s : State),
    (∃ t, exec (.seImm x kk) s = .next t ∧ t.pc = (if s.readV x = kk then s.pc + 2 else s.pc) ∧
      UnchangedBut (fun c => c = .pc) s t) ∧
    (∃ t, exec (.sneImm x kk) s = .next t ∧ t.pc = (if s.readV x = kk then s.pc else s.pc + 2) ∧
      UnchangedBut (fun c => c = .pc) s t) ∧
    (∃ t, exec (.seReg x y) s = .next t ∧ t.pc = (if s.readV x = s.readV y then s.pc + 2 else s.pc) ∧
      UnchangedBut (fun c => c = .pc) s t) ∧
    (∃ t, exec (.sneReg x y) s = .next t ∧ t.pc = (if s.readV x = s.readV y then s.pc else s.pc + 2) ∧
      UnchangedBut (fun c => c = .pc) s t) ∧
    encode (.seImm x kk) &&& 0xF000#16 = 0x3000#16 ∧ encode (.sneImm x kk) &&& 0xF000#16 = 0x4000#16 ∧
    encode (.seReg x y) &&& 0xF00F#16 = 0x5000#16 ∧ encode (.sneReg x y) &&& 0xF00F#16 = 0x9000#16 ∧
    (∀ p q i, decodeWord s.fetched = .ok i → i ∈ [Instr.seImm x kk, .sneImm x kk, .seReg x y, .sneReg x y] →
      diagAt p q s = none)

/-! ## Load, arithmetic, logic, shift, random (42_load-alu.md) -/

/-- R120, R121: load and wrapping add of the immediate; no flag: VF is written only as an ordinary destination. -/
def Obligations.ImmediateLoadAndAdd : Prop :=
  ∀ (x : Nibble) (kk : Byte) (s : State),
    (∃ t, exec (.ldImm x kk) s = .next t ∧ t.readV x = kk ∧ UnchangedBut (fun c => c = .v x) s t) ∧
    (∃ t, exec (.addImm x kk) s = .next t ∧ (t.readV x).toNat = ((s.readV x).toNat + kk.toNat) % 256 ∧
      UnchangedBut (fun c => c = .v x) s t) ∧
    encode (.ldImm x kk) &&& 0xF000#16 = 0x6000#16 ∧ encode (.addImm x kk) &&& 0xF000#16 = 0x7000#16

/-- R122 to R125: copy and the bitwise operations, bit by bit; "no flag change". -/
def Obligations.CopyAndLogicLeaveFlags : Prop :=
  ∀ (x y : Nibble) (s : State),
    (∃ t, exec (.ldReg x y) s = .next t ∧ t.readV x = s.readV y ∧ UnchangedBut (fun c => c = .v x) s t) ∧
    (∃ t, exec (.orReg x y) s = .next t ∧
      (∀ k, (t.readV x).getLsbD k = ((s.readV x).getLsbD k || (s.readV y).getLsbD k)) ∧
      UnchangedBut (fun c => c = .v x) s t) ∧
    (∃ t, exec (.andReg x y) s = .next t ∧
      (∀ k, (t.readV x).getLsbD k = ((s.readV x).getLsbD k && (s.readV y).getLsbD k)) ∧
      UnchangedBut (fun c => c = .v x) s t) ∧
    (∃ t, exec (.xorReg x y) s = .next t ∧
      (∀ k, (t.readV x).getLsbD k = ((s.readV x).getLsbD k ^^ (s.readV y).getLsbD k)) ∧
      UnchangedBut (fun c => c = .v x) s t)

/-- R127 in the frame of R126 (operands first is decision D5, log entry 10): the result and the carry are those of the values
before; with x = 0xF the result is what VF holds. -/
def Obligations.AddSetsCarry : Prop :=
  ∀ (x y : Nibble) (s : State),
    ∃ t, exec (.addReg x y) s = .next t ∧
      (t.readV x).toNat = ((s.readV x).toNat + (s.readV y).toNat) % 256 ∧
      (x ≠ 0xF → (t.readV 0xF).toNat = if (s.readV x).toNat + (s.readV y).toNat > 255 then 1 else 0) ∧
      UnchangedBut (fun c => c = .v x ∨ c = .v 0xF) s t

/-- R128 and R130 in the frame of R126 (operands first is decision D5, log entry 10): the differences wrap, and the flag is
strictly greater, so that equal operands give VF = 0. -/
def Obligations.SubtractsSetStrictlyGreater : Prop :=
  ∀ (x y : Nibble) (s : State),
    (∃ t, exec (.sub x y) s = .next t ∧
      (t.readV x).toNat = (256 + (s.readV x).toNat - (s.readV y).toNat) % 256 ∧
      (x ≠ 0xF → (t.readV 0xF).toNat = if (s.readV x).toNat > (s.readV y).toNat then 1 else 0) ∧
      UnchangedBut (fun c => c = .v x ∨ c = .v 0xF) s t) ∧
    (∃ t, exec (.subn x y) s = .next t ∧
      (t.readV x).toNat = (256 + (s.readV y).toNat - (s.readV x).toNat) % 256 ∧
      (x ≠ 0xF → (t.readV 0xF).toNat = if (s.readV y).toNat > (s.readV x).toNat then 1 else 0) ∧
      UnchangedBut (fun c => c = .v x ∨ c = .v 0xF) s t)

/-- R129, R131, R77 in the frame of R126 (operands first is decision D5, log entry 10): Vx is shifted by one, the flag is the
bit shifted out, and the field y has no effect. -/
def Obligations.ShiftsSetTheBitShiftedOut : Prop :=
  ∀ (x y z : Nibble) (s : State),
    (∃ t, exec (.shr x y) s = .next t ∧ exec (.shr x z) s = .next t ∧
      (t.readV x).toNat = (s.readV x).toNat / 2 ∧
      (x ≠ 0xF → (t.readV 0xF).toNat = (s.readV x).toNat % 2) ∧
      UnchangedBut (fun c => c = .v x ∨ c = .v 0xF) s t) ∧
    (∃ t, exec (.shl x y) s = .next t ∧ exec (.shl x z) s = .next t ∧
      (t.readV x).toNat = (s.readV x).toNat * 2 % 256 ∧
      (x ≠ 0xF → (t.readV 0xF).toNat = (s.readV x).toNat / 128) ∧
      UnchangedBut (fun c => c = .v x ∨ c = .v 0xF) s t)

/-- R21: every flag value is 0 or 1, for the six instructions that write VF as a flag (R126 d). -/
def Obligations.FlagsAreZeroOrOne : Prop :=
  ∀ (i : Instr) (s t : State) (x y n : Nibble),
    (x ≠ 0xF ∧ i ∈ [Instr.addReg x y, .sub x y, .shr x y, .subn x y, .shl x y]) ∨ i = .drw x y n →
    exec i s = .next t → t.readV 0xF = 0 ∨ t.readV 0xF = 1

/-- R126, derived there: the two orders of ALU_ALIAS_ORDER differ only through a read of VF after the flag is written; so
they agree when VF is named by neither operand, and for the shifts when it is not Vx (log entry 10). -/
def Obligations.AliasOrdersAgreeOffVF : Prop :=
  ∀ (x y n : Nibble) (s : State), x ≠ 0xF →
    (∀ f, f = aluShr ∨ f = aluShl ∨ y ≠ 0xF → s.flagOp .operandsFirst f x y = s.flagOp .sequential f x y) ∧
    (y ≠ 0xF → s.drawSprite .operandsFirst x y n = s.drawSprite .sequential x y n)

/-- R132 (the draw is a free value, decision D9, log entry 1): Vx is the draw masked by kk, so it has no bit outside kk, and
the draw is used up. -/
def Obligations.RndMasksAFreshDraw : Prop :=
  ∀ (x : Nibble) (kk : Byte) (s : State),
    ∃ t, exec (.rnd x kk) s = .next t ∧ t.readV x = s.nextDraw &&& kk ∧ t.readV x &&& ~~~kk = 0 ∧
      t.draws = s.draws + 1 ∧ UnchangedBut (fun c => c = .v x ∨ c = .draws) s t

/-! ## Index register and memory transfer (43_index-memory.md) -/

/-- R140. -/
def Obligations.LdILoadsTheAddress : Prop :=
  ∀ (nnn : Addr12) (s : State), encode (.ldI nnn) &&& 0xF000#16 = 0xA000#16 ∧
    ∃ t, exec (.ldI nnn) s = .next t ∧ t.I.toNat = nnn.toNat ∧ UnchangedBut (fun c => c = .index) s t

/-- R141 (16 bits kept: decision D3, log entry 9) and R142 (unmasked for Vx >= 16: decision D8, log entry 12): I + Vx modulo
65536, and 5 x Vx without wrap; VF is not written. -/
def Obligations.IndexArithmetic : Prop :=
  ∀ (x : Nibble) (s : State),
    (∃ t, exec (.addI x) s = .next t ∧ t.I.toNat = (s.I.toNat + (s.readV x).toNat) % 65536 ∧
      UnchangedBut (fun c => c = .index) s t) ∧
    (∃ t, exec (.ldF x) s = .next t ∧ t.I.toNat = 5 * (s.readV x).toNat ∧ UnchangedBut (fun c => c = .index) s t)

/-- R143 (addresses wrap modulo 4096: decision D2, log entry 8): the three decimal digits of Vx, hundreds at `I`; I and every
other cell are unchanged. -/
def Obligations.BcdStoresThreeDigits : Prop :=
  ∀ (x : Nibble) (s : State),
    ∃ t, exec (.ldB x) s = .next t ∧
      (let d := fun k => (Memory.read t.MEM (cellOf (s.indexed k))).toNat
       100 * d 0 + 10 * d 1 + d 2 = (s.readV x).toNat ∧ d 0 ≤ 2 ∧ d 1 ≤ 9 ∧ d 2 ≤ 9) ∧
      UnchangedBut (fun c => ∃ k, k < 3 ∧ c = .cell (cellOf (s.indexed k))) s t

/-- R144 (addresses wrap modulo 4096: decision D2; I keeps 16 bits: D3; log entries 8 and 9): V0 to Vx at `I` and on, from the
I on entry; I grows by x + 1; no register and no other cell changes. -/
def Obligations.StoreRegistersToMemory : Prop :=
  ∀ (x : Nibble) (s : State),
    ∃ t, exec (.storeRegs x) s = .next t ∧
      (∀ j : Nibble, j ≤ x → Memory.read t.MEM (cellOf (s.indexed j.toNat)) = s.readV j) ∧
      t.I.toNat = (s.I.toNat + x.toNat + 1) % 65536 ∧
      UnchangedBut (fun c => c = .index ∨ ∃ k, k ≤ x.toNat ∧ c = .cell (cellOf (s.indexed k))) s t

/-- R145 (addresses wrap modulo 4096: decision D2; I keeps 16 bits: D3; log entries 8 and 9): V0 to Vx from `I` and on;
registers above Vx and MEM are unchanged. -/
def Obligations.LoadRegistersFromMemory : Prop :=
  ∀ (x : Nibble) (s : State),
    ∃ t, exec (.loadRegs x) s = .next t ∧
      (∀ j : Nibble, j ≤ x → t.readV j = Memory.read s.MEM (cellOf (s.indexed j.toNat))) ∧
      t.I.toNat = (s.I.toNat + x.toNat + 1) % 65536 ∧
      UnchangedBut (fun c => c = .index ∨ ∃ k : Nibble, k ≤ x ∧ c = .v k) s t

/-- R144, R145: registers stored by `Fx55` are restored by `Fx65` from the same I, whatever the registers hold by then. -/
def Obligations.StoredRegistersAreRestored : Prop :=
  ∀ (x : Nibble) (s u : State),
    ∃ t, exec (.storeRegs x) s = .next t ∧
      (u.MEM = t.MEM → u.I = s.I → ∃ w, exec (.loadRegs x) u = .next w ∧ ∀ j : Nibble, j ≤ x → w.readV j = s.readV j)

/-! ## Display (44_display.md) -/

/-- R151: every row is zero, nothing else changes, and a FRAME then gives all-off pixels at all 2048 positions. -/
def Obligations.ClsBlanksTheDisplay : Prop :=
  ∀ s : State, encode .cls = 0x00E0#16 ∧
    ∃ t, exec .cls s = .next t ∧ (∀ r, t.row r = 0) ∧ UnchangedBut (fun c => ∃ r, c = .row r) s t ∧
      ∀ on off, t.frameWith on off = List.replicate 2048 off

/-- R152, R153, pixel by pixel (coordinates read before VF is cleared: decision D6, log entry 10; addresses wrap: decision D2,
log entry 8; bit 7 of a sprite byte leftmost and the wrap at both edges are readings, DEDUCED in log entry 27): a pixel is toggled exactly where the sprite is lit, wrapping at both edges; VF is 1 if a lit pixel was turned
off, else 0; I, MEM and everything else are unchanged. -/
def Obligations.DrawTogglesSpritePixels : Prop :=
  ∀ (x y n : Nibble) (s : State),
    let lit := fun (r : Fin 32) (c : Nat) =>
      s.spriteLit ((s.readV x).toNat % 64) ((s.readV y).toNat % 32) n.toNat r c
    ∃ t, exec (.drw x y n) s = .next t ∧
      (∀ (r : Fin 32) (c : Nat), c < 64 →
        (t.pixel r c = true ↔ (s.pixel r c = true ∧ ¬ lit r c) ∨ (s.pixel r c = false ∧ lit r c))) ∧
      ((∃ r c, c < 64 ∧ s.pixel r c = true ∧ lit r c) → t.readV 0xF = 1) ∧
      ((∀ r c, c < 64 → s.pixel r c = true → ¬ lit r c) → t.readV 0xF = 0) ∧
      UnchangedBut (fun c => c = .v 0xF ∨
        ∃ k, k < n.toNat ∧ c = .row (spriteTarget ((s.readV y).toNat % 32) k)) s t

/-- R153 f: drawing the same sprite twice restores the display; and if the first draw hit no lit pixel, the second reports a
collision iff the sprite has a 1 bit. (R153 f says so of every second draw; where the first draw turned pixels off, R152
gives otherwise, and R152 is followed: log entry 26.) -/
def Obligations.DrawTwiceRestoresTheDisplay : Prop :=
  ∀ (x y n : Nibble) (s : State), x ≠ 0xF → y ≠ 0xF →
    ∃ t u, exec (.drw x y n) s = .next t ∧ exec (.drw x y n) t = .next u ∧ (∀ r, u.row r = s.row r) ∧
      (t.readV 0xF = 0 → (u.readV 0xF = 1 ↔ ∃ k, k < n.toNat ∧ s.memRead (s.indexed k) ≠ 0))

/-- R155 (the element order is decision D13, log entry 7) and R156: FRAME returns 2048 values, element 64 r + c showing pixel
(c, r), for every two patterns; as a transaction it changes no state. -/
def Obligations.FrameIsRowMajorAndPure : Prop :=
  ∀ (s : State) (on off : Pixel),
    (s.frameWith on off).length = 2048 ∧
    (∀ (r : Fin 32) (c : Nat), c < 64 →
      (s.frameWith on off)[64 * r.val + c]? = some (if (s.row r).getLsbD (63 - c) then on else off)) ∧
    transact .frame (.ready s) = .next (.ready s) ∧ Block.reply .frame (.ready s) = s.frameWith 0xFFFFFFFF#32 pixelOff

/-! ## Keys and timer registers (45_keys-timers.md) -/

/-- R166, R167 (the key number is masked to 4 bits: decision D7, log entry 11): skip if the key is, or is not, pressed. -/
def Obligations.KeySkipsTestTheLatch : Prop :=
  ∀ (x : Nibble) (s : State),
    let down := s.KEYS.getLsbD ((s.readV x).toNat % 16)
    (∃ t, exec (.skp x) s = .next t ∧ t.pc = (if down then s.pc + 2 else s.pc) ∧ UnchangedBut (fun c => c = .pc) s t) ∧
    (∃ t, exec (.sknp x) s = .next t ∧ t.pc = (if down then s.pc else s.pc + 2) ∧ UnchangedBut (fun c => c = .pc) s t)

/-- R168, R169, R171: the moves between V registers and the timers, and SOUND_ON after a write of ST (R5). -/
def Obligations.TimerRegisterMoves : Prop :=
  ∀ (x : Nibble) (s : State),
    (∃ t, exec (.ldVxDT x) s = .next t ∧ t.readV x = s.DT ∧ UnchangedBut (fun c => c = .v x) s t) ∧
    (∃ t, exec (.ldDTVx x) s = .next t ∧ t.DT = s.readV x ∧ UnchangedBut (fun c => c = .dt) s t) ∧
    (∃ t, exec (.ldSTVx x) s = .next t ∧ t.ST = s.readV x ∧ (t.soundOn = true ↔ s.readV x ≠ 0) ∧
      UnchangedBut (fun c => c = .st) s t)

/-- R170 (conflict C3): with a key held, Vx receives the lowest-numbered one and the core stays as it was; with none, HALT
is set, pc stays at a + 2 and Vx is not written. -/
def Obligations.WaitForKeyReadsOrHalts : Prop :=
  ∀ (x : Nibble) (s : State),
    (s.KEYS ≠ 0 → ∃ (t : State) (k : Nat), exec (.ldVxK x) s = .next t ∧ k < 16 ∧ (t.readV x).toNat = k ∧
      s.KEYS.getLsbD k = true ∧ (∀ j, j < k → s.KEYS.getLsbD j = false) ∧ UnchangedBut (fun c => c = .v x) s t) ∧
    (s.KEYS = 0 → ∃ t, exec (.ldVxK x) s = .next t ∧ t.HALT = true ∧ UnchangedBut (fun c => c = .halt) s t)

/-- R172 (the latch is replaced always: decision D17, log entry 16): the KEYS transaction replaces the latch; Halted with a
nonzero mask it also writes the lowest set index into the register named by the low nibble of the byte at pc - 2 and
clears HALT; nothing else changes. -/
def Obligations.KeysReplacesTheLatchAndResolves : Prop :=
  ∀ (mask : Word) (s : State),
    ∃ t, transact (.keys mask) (.ready s) = .next (.ready t) ∧ t.KEYS = mask ∧
      (s.HALT = false ∨ mask = 0 → UnchangedBut (fun c => c = .keys) s t) ∧
      (s.HALT = true → mask ≠ 0 →
        ∃ (x : Nibble) (k : Nat), x.toNat = (s.memRead (s.pc - 2)).toNat % 16 ∧ t.HALT = false ∧
          k < 16 ∧ (t.readV x).toNat = k ∧ mask.getLsbD k = true ∧ (∀ j, j < k → mask.getLsbD j = false) ∧
          UnchangedBut (fun c => c = .keys ∨ c = .halt ∨ c = .v x) s t)

/-- R170, R172, R173 end to end: a running core that fetches `Fx0A` with no key pressed waits at the instruction after it for
any number of steps, with its registers, memory, stack and display untouched, until a nonzero mask puts the lowest key's
index in Vx and resumes it. That the mask which resolves the wait also stays in the latch is decision D17 (log entry 16); the
read at pc - 2 wraps by decision D2 (log entry 8). -/
def Obligations.WaitForKeyIsResolvedIntoVx : Prop :=
  ∀ (s : State) (x : Nibble) (k : Nat) (mask : Word),
    s.HALT = false → s.KEYS = 0 → decodeWord s.fetched = .ok (.ldVxK x) → mask ≠ 0 →
    ∃ u, Steps (k + 1) s u ∧ u.HALT = true ∧ u.pc = s.pc + 2 ∧
      UnchangedBut (fun c => c = .halt ∨ c = .pc ∨ c = .acc ∨ c = .dt ∨ c = .st) s u ∧
      (let w := u.updateKeys mask
       w.HALT = false ∧ w.pc = s.pc + 2 ∧ w.KEYS = mask ∧ w.readV x = lowestSet mask ∧
       UnchangedBut (fun c => c = .halt ∨ c = .keys ∨ c = .v x) u w)

/-! ## Memory (20_memory.md) -/

/-- R55, R61: a read gives the byte last written to the cell, and a write leaves every other cell alone; so the next fetch
sees it. -/
def Obligations.MemoryReadsTheLastWrite : Prop :=
  ∀ (s : State) (a b : Word) (v : Byte),
    (a.toNat % 4096 = b.toNat % 4096 → (s.memWrite a v).memRead b = v) ∧
    (a.toNat % 4096 ≠ b.toNat % 4096 → (s.memWrite a v).memRead b = s.memRead b)

/-- The model's canonical form (log entry 19): memories in it that read the same at every one of the 4096 cells (R50) are
equal, so that equal memories are equal data. -/
def Obligations.CanonicalMemoriesAreExtensional : Prop :=
  ∀ m n : Memory, Memory.wf m → Memory.wf n → (∀ a, a < 4096 → Memory.read m a = Memory.read n a) → m = n

/-! ## The whole machine -/

/-- R35, R54: no instruction writes a part of the state that the table does not let it write. The parts named more closely than
the table names them rest on choices: the stack slot of CALL on decision D15 (log entry 14), the cells stored to on decision
D2 (log entry 8), the rows DRW draws on on decision D6 (log entry 10) and the wrap of rows (log entry 27), the part `draws` of
RND, which is the model's own, on log entry 1. -/
def Obligations.InstructionsWriteOnlyTheirParts : Prop :=
  ∀ (i : Instr) (s t : State), exec i s = .next t → UnchangedBut (mayWrite i s) s t

/-- Every step keeps the invariant, for every STEP_MS = p/q of at most 50/3 ms: MEM stays canonical, a Halted state waits on
an `Fx0A` still in MEM with an empty latch (R173), ACC stays between 0 and the reload (R185). The canonical form of MEM is the
model's own choice (log entry 19); that ACC is exact is decision D11, DEDUCED in log entry 3. -/
def Obligations.StepKeepsTheInvariant : Prop :=
  ∀ (p q : Nat) (s t : State), 3 * p ≤ 50 * q → s.Sound q → stepAt p q s = .next t → t.Sound q

/-- Every transaction of the host that answers a block keeps the invariant (R5), so it holds after every sequence in issue
order (R184); a refused transaction answers no state, and the block after it has none to speak of (decisions D10, D20, log
entry 13). The clause on ACC is for the model's STEP_MS = 2 (log entry 4), exact (log entry 3); the canonical form of MEM is
the model's own choice (log entry 19). -/
def Obligations.EveryTransactionKeepsTheInvariant : Prop :=
  (∀ (x : Transaction) (b b' : Block), b.Inv → transact x b = .next b' → b'.Inv) ∧
  (∀ (xs : List Transaction) (b : Block), b.Inv → (Block.afterAll xs b).Inv)
end

