-- ==== Sys2Proof/Laws/Decode.lean ====
section
/-! SUPPORT. The fields of a word built in each format of spec/30_encoding.md rule R72, and a word rebuilt from its fields:
the small lemmas that a proof about the decoder cites instead of unfolding bit operations. -/

namespace Sys2Proof

section
variable (op x y n : Nibble) (kk : Byte) (nnn : Addr12) (w : Word)

/-! ## Bits of a built word -/

theorem getLsbD_nibbles (a b : Nibble) (i : Nat) :
    (a ++ b : Byte).getLsbD i = if i < 4 then b.getLsbD i else a.getLsbD (i - 4) :=
  BitVec.getLsbD_append

theorem getLsbD_bytes (a b : Byte) (i : Nat) :
    (a ++ b : Word).getLsbD i = if i < 8 then b.getLsbD i else a.getLsbD (i - 8) :=
  BitVec.getLsbD_append

theorem getLsbD_formatNNN (i : Nat) :
    (formatNNN op nnn).getLsbD i = if i < 12 then nnn.getLsbD i else op.getLsbD (i - 12) :=
  BitVec.getLsbD_append

theorem getLsbD_formatXKK (i : Nat) :
    (formatXKK op x kk).getLsbD i =
      if i < 8 then kk.getLsbD i else if i - 8 < 4 then x.getLsbD (i - 8) else op.getLsbD (i - 8 - 4) := by
  rw [formatXKK, getLsbD_bytes, getLsbD_nibbles]

theorem getLsbD_formatXYN (i : Nat) :
    (formatXYN op x y n).getLsbD i =
      if i < 8 then (if i < 4 then n.getLsbD i else y.getLsbD (i - 4))
      else if i - 8 < 4 then x.getLsbD (i - 8) else op.getLsbD (i - 8 - 4) := by
  rw [formatXYN, getLsbD_bytes, getLsbD_nibbles, getLsbD_nibbles]

/-! ## Fields of a built word -/

@[simp] theorem fieldOp_formatNNN : fieldOp (formatNNN op nnn) = op := by
  ext i hi
  simp [fieldOp, getLsbD_formatNNN, BitVec.getLsbD_eq_getElem hi]

@[simp] theorem fieldNNN_formatNNN : fieldNNN (formatNNN op nnn) = nnn := by
  ext i hi
  simp [fieldNNN, getLsbD_formatNNN, hi]

@[simp] theorem fieldOp_formatXKK : fieldOp (formatXKK op x kk) = op := by
  ext i hi
  rw [fieldOp, BitVec.getElem_extractLsb', getLsbD_formatXKK, if_neg (by omega), if_neg (by omega),
    ← BitVec.getLsbD_eq_getElem hi]
  congr 1; omega

@[simp] theorem fieldX_formatXKK : fieldX (formatXKK op x kk) = x := by
  ext i hi
  simp [fieldX, getLsbD_formatXKK, hi]

@[simp] theorem fieldKK_formatXKK : fieldKK (formatXKK op x kk) = kk := by
  ext i hi
  simp [fieldKK, getLsbD_formatXKK, hi]

@[simp] theorem fieldOp_formatXYN : fieldOp (formatXYN op x y n) = op := by
  ext i hi
  rw [fieldOp, BitVec.getElem_extractLsb', getLsbD_formatXYN, if_neg (by omega), if_neg (by omega),
    ← BitVec.getLsbD_eq_getElem hi]
  congr 1; omega

@[simp] theorem fieldX_formatXYN : fieldX (formatXYN op x y n) = x := by
  ext i hi
  simp [fieldX, getLsbD_formatXYN, hi]

@[simp] theorem fieldY_formatXYN : fieldY (formatXYN op x y n) = y := by
  ext i hi
  simp [fieldY, getLsbD_formatXYN, (by omega : 4 + i < 8), BitVec.getLsbD_eq_getElem hi]

@[simp] theorem fieldN_formatXYN : fieldN (formatXYN op x y n) = n := by
  ext i hi
  simp [fieldN, getLsbD_formatXYN, hi, (by omega : i < 8)]

/-! ## A word from its fields -/

theorem word_eq_formatNNN : formatNNN (fieldOp w) (fieldNNN w) = w := by
  apply BitVec.eq_of_getLsbD_eq
  intro i hi
  by_cases h : i < 12
  · simp [getLsbD_formatNNN, fieldNNN, h]
  · simp [getLsbD_formatNNN, fieldOp, h, (by omega : i - 12 < 4), (by omega : 12 + (i - 12) = i)]

theorem word_eq_formatXKK : formatXKK (fieldOp w) (fieldX w) (fieldKK w) = w := by
  apply BitVec.eq_of_getLsbD_eq
  intro i hi
  by_cases h : i < 8
  · simp [getLsbD_formatXKK, fieldKK, h]
  · by_cases h2 : i - 8 < 4
    · simp [getLsbD_formatXKK, fieldX, h, h2, (by omega : 8 + (i - 8) = i)]
    · simp [getLsbD_formatXKK, fieldOp, h, h2, (by omega : i - 8 - 4 < 4), (by omega : 12 + (i - 8 - 4) = i)]

theorem word_eq_formatXYN : formatXYN (fieldOp w) (fieldX w) (fieldY w) (fieldN w) = w := by
  apply BitVec.eq_of_getLsbD_eq
  intro i hi
  by_cases h : i < 8
  · by_cases h2 : i < 4
    · simp [getLsbD_formatXYN, fieldN, h, h2]
    · simp [getLsbD_formatXYN, fieldY, h, h2, (by omega : i - 4 < 4), (by omega : 4 + (i - 4) = i)]
  · by_cases h2 : i - 8 < 4
    · simp [getLsbD_formatXYN, fieldX, h, h2, (by omega : 8 + (i - 8) = i)]
    · simp [getLsbD_formatXYN, fieldOp, h, h2, (by omega : i - 8 - 4 < 4), (by omega : 12 + (i - 8 - 4) = i)]

/-! ## A built word under the masks of R76 -/

theorem formatNNN_mask : formatNNN op nnn &&& 0xF000#16 = formatNNN op 0 := by
  have : (0xF000#16 : Word) = formatNNN 0xF 0 := by decide
  rw [this]
  apply BitVec.eq_of_getLsbD_eq
  intro i hi
  by_cases h : i < 12
  · simp [getLsbD_formatNNN, h]
  · have : i - 12 < 4 := by omega
    have hf : (0xF#4 : Nibble).getLsbD (i - 12) = true := by interval_cases (i - 12) <;> decide
    simp [getLsbD_formatNNN, h, hf]

theorem byteOnes (i : Nat) (h : i < 8) : (0xFF#8 : Byte).getLsbD i = true := by interval_cases i <;> decide

theorem nibbleOnes (i : Nat) (h : i < 4) : (0xF#4 : Nibble).getLsbD i = true := by interval_cases i <;> decide

theorem formatXKK_mask : formatXKK op x kk &&& 0xF000#16 = formatXKK op 0 0 := by
  have : (0xF000#16 : Word) = formatXKK 0xF 0 0 := by decide
  rw [this]
  apply BitVec.eq_of_getLsbD_eq
  intro i hi
  by_cases h : i < 8
  · simp [getLsbD_formatXKK, h]
  · by_cases h2 : i - 8 < 4
    · simp [getLsbD_formatXKK, h, h2]
    · simp [getLsbD_formatXKK, h, h2, nibbleOnes (i - 8 - 4) (by omega)]

theorem formatXFF_mask : formatXKK op x kk &&& 0xF0FF#16 = formatXKK op 0 kk := by
  have : (0xF0FF#16 : Word) = formatXKK 0xF 0 0xFF := by decide
  rw [this]
  apply BitVec.eq_of_getLsbD_eq
  intro i hi
  by_cases h : i < 8
  · simp [getLsbD_formatXKK, h, byteOnes i h]
  · by_cases h2 : i - 8 < 4
    · simp [getLsbD_formatXKK, h, h2]
    · simp [getLsbD_formatXKK, h, h2, nibbleOnes (i - 8 - 4) (by omega)]

theorem formatXYF_mask : formatXYN op x y n &&& 0xF00F#16 = formatXYN op 0 0 n := by
  have : (0xF00F#16 : Word) = formatXYN 0xF 0 0 0xF := by decide
  rw [this]
  apply BitVec.eq_of_getLsbD_eq
  intro i hi
  by_cases h : i < 8
  · by_cases h2 : i < 4
    · simp [getLsbD_formatXYN, h, h2, nibbleOnes i h2]
    · simp [getLsbD_formatXYN, h, h2]
  · by_cases h2 : i - 8 < 4
    · simp [getLsbD_formatXYN, h, h2]
    · simp [getLsbD_formatXYN, h, h2, nibbleOnes (i - 8 - 4) (by omega)]

theorem formatXYN_mask : formatXYN op x y n &&& 0xF000#16 = formatXYN op 0 0 0 := by
  have : (0xF000#16 : Word) = formatXYN 0xF 0 0 0 := by decide
  rw [this]
  apply BitVec.eq_of_getLsbD_eq
  intro i hi
  by_cases h : i < 8
  · by_cases h2 : i < 4
    · simp [getLsbD_formatXYN, h, h2]
    · simp [getLsbD_formatXYN, h, h2]
  · by_cases h2 : i - 8 < 4
    · simp [getLsbD_formatXYN, h, h2]
    · simp [getLsbD_formatXYN, h, h2, nibbleOnes (i - 8 - 4) (by omega)]

end

/-- A word is its two bytes, in the order memory holds them (R51). -/
theorem wordOfBytes_bytes (w : Word) : wordOfBytes (w.extractLsb' 8 8) (w.extractLsb' 0 8) = w := by
  apply BitVec.eq_of_getLsbD_eq
  intro i hi
  rw [wordOfBytes, getLsbD_bytes]
  by_cases h : i < 8
  · simp [h]
  · simp [h, (by omega : i - 8 < 8), (by omega : 8 + (i - 8) = i)]

/-- Decoding bytes is decoding the word they spell (R51, R70). -/
theorem decode_bytesOfWord (w : Word) (rest : List Byte) :
    decode (bytesOfWord w ++ rest) =
      match decodeWord w with
      | .ok i => .ok (i, rest)
      | .error e => .error e := by
  cases h : decodeWord w <;> simp [bytesOfWord, decode, wordOfBytes_bytes, h]

end Sys2Proof
end

