-- ==== Sys2Proof/Laws/State.lean ====
section
/-! SUPPORT. One lemma per field per update, and per observer per update it does not touch, each true by rfl: later proofs
unfold no record update. Then the lemmas of the reads that an update does touch. -/

namespace Sys2Proof.Machine

variable (s : State)

/-! ## writeV -/

@[simp] theorem State.writeV_pc (x : Nibble) (v : Byte) : (s.writeV x v).pc = s.pc := rfl
@[simp] theorem State.writeV_I (x : Nibble) (v : Byte) : (s.writeV x v).I = s.I := rfl
@[simp] theorem State.writeV_SP (x : Nibble) (v : Byte) : (s.writeV x v).SP = s.SP := rfl
@[simp] theorem State.writeV_STK (x : Nibble) (v : Byte) : (s.writeV x v).STK = s.STK := rfl
@[simp] theorem State.writeV_DT (x : Nibble) (v : Byte) : (s.writeV x v).DT = s.DT := rfl
@[simp] theorem State.writeV_ST (x : Nibble) (v : Byte) : (s.writeV x v).ST = s.ST := rfl
@[simp] theorem State.writeV_DISP (x : Nibble) (v : Byte) : (s.writeV x v).DISP = s.DISP := rfl
@[simp] theorem State.writeV_KEYS (x : Nibble) (v : Byte) : (s.writeV x v).KEYS = s.KEYS := rfl
@[simp] theorem State.writeV_HALT (x : Nibble) (v : Byte) : (s.writeV x v).HALT = s.HALT := rfl
@[simp] theorem State.writeV_ACC (x : Nibble) (v : Byte) : (s.writeV x v).ACC = s.ACC := rfl
@[simp] theorem State.writeV_MEM (x : Nibble) (v : Byte) : (s.writeV x v).MEM = s.MEM := rfl
@[simp] theorem State.writeV_draws (x : Nibble) (v : Byte) : (s.writeV x v).draws = s.draws := rfl
@[simp] theorem State.stackEntry_writeV (x : Nibble) (v : Byte) (j : Nibble) : (s.writeV x v).stackEntry j = s.stackEntry j := rfl
@[simp] theorem State.row_writeV (x : Nibble) (v : Byte) (j : Fin 32) : (s.writeV x v).row j = s.row j := rfl
@[simp] theorem State.memRead_writeV (x : Nibble) (v : Byte) (j : Word) : (s.writeV x v).memRead j = s.memRead j := rfl
@[simp] theorem State.memRead2_writeV (x : Nibble) (v : Byte) (j : Word) : (s.writeV x v).memRead2 j = s.memRead2 j := rfl
@[simp] theorem State.indexed_writeV (x : Nibble) (v : Byte) (j : Nat) : (s.writeV x v).indexed j = s.indexed j := rfl
@[simp] theorem State.nextDraw_writeV (x : Nibble) (v : Byte) : (s.writeV x v).nextDraw = s.nextDraw := rfl

/-! ## memWrite -/

@[simp] theorem State.memWrite_V (a : Word) (v : Byte) : (s.memWrite a v).V = s.V := rfl
@[simp] theorem State.memWrite_pc (a : Word) (v : Byte) : (s.memWrite a v).pc = s.pc := rfl
@[simp] theorem State.memWrite_I (a : Word) (v : Byte) : (s.memWrite a v).I = s.I := rfl
@[simp] theorem State.memWrite_SP (a : Word) (v : Byte) : (s.memWrite a v).SP = s.SP := rfl
@[simp] theorem State.memWrite_STK (a : Word) (v : Byte) : (s.memWrite a v).STK = s.STK := rfl
@[simp] theorem State.memWrite_DT (a : Word) (v : Byte) : (s.memWrite a v).DT = s.DT := rfl
@[simp] theorem State.memWrite_ST (a : Word) (v : Byte) : (s.memWrite a v).ST = s.ST := rfl
@[simp] theorem State.memWrite_DISP (a : Word) (v : Byte) : (s.memWrite a v).DISP = s.DISP := rfl
@[simp] theorem State.memWrite_KEYS (a : Word) (v : Byte) : (s.memWrite a v).KEYS = s.KEYS := rfl
@[simp] theorem State.memWrite_HALT (a : Word) (v : Byte) : (s.memWrite a v).HALT = s.HALT := rfl
@[simp] theorem State.memWrite_ACC (a : Word) (v : Byte) : (s.memWrite a v).ACC = s.ACC := rfl
@[simp] theorem State.memWrite_MEM (a : Word) (v : Byte) : (s.memWrite a v).MEM = Memory.write s.MEM (cellOf a) v := rfl
@[simp] theorem State.memWrite_draws (a : Word) (v : Byte) : (s.memWrite a v).draws = s.draws := rfl
@[simp] theorem State.readV_memWrite (a : Word) (v : Byte) (j : Nibble) : (s.memWrite a v).readV j = s.readV j := rfl
@[simp] theorem State.stackEntry_memWrite (a : Word) (v : Byte) (j : Nibble) : (s.memWrite a v).stackEntry j = s.stackEntry j := rfl
@[simp] theorem State.row_memWrite (a : Word) (v : Byte) (j : Fin 32) : (s.memWrite a v).row j = s.row j := rfl
@[simp] theorem State.indexed_memWrite (a : Word) (v : Byte) (j : Nat) : (s.memWrite a v).indexed j = s.indexed j := rfl
@[simp] theorem State.nextDraw_memWrite (a : Word) (v : Byte) : (s.memWrite a v).nextDraw = s.nextDraw := rfl

/-! ## setPc -/

@[simp] theorem State.setPc_V (a : Word) : (s.setPc a).V = s.V := rfl
@[simp] theorem State.setPc_pc (a : Word) : (s.setPc a).pc = a := rfl
@[simp] theorem State.setPc_I (a : Word) : (s.setPc a).I = s.I := rfl
@[simp] theorem State.setPc_SP (a : Word) : (s.setPc a).SP = s.SP := rfl
@[simp] theorem State.setPc_STK (a : Word) : (s.setPc a).STK = s.STK := rfl
@[simp] theorem State.setPc_DT (a : Word) : (s.setPc a).DT = s.DT := rfl
@[simp] theorem State.setPc_ST (a : Word) : (s.setPc a).ST = s.ST := rfl
@[simp] theorem State.setPc_DISP (a : Word) : (s.setPc a).DISP = s.DISP := rfl
@[simp] theorem State.setPc_KEYS (a : Word) : (s.setPc a).KEYS = s.KEYS := rfl
@[simp] theorem State.setPc_HALT (a : Word) : (s.setPc a).HALT = s.HALT := rfl
@[simp] theorem State.setPc_ACC (a : Word) : (s.setPc a).ACC = s.ACC := rfl
@[simp] theorem State.setPc_MEM (a : Word) : (s.setPc a).MEM = s.MEM := rfl
@[simp] theorem State.setPc_draws (a : Word) : (s.setPc a).draws = s.draws := rfl
@[simp] theorem State.readV_setPc (a : Word) (j : Nibble) : (s.setPc a).readV j = s.readV j := rfl
@[simp] theorem State.stackEntry_setPc (a : Word) (j : Nibble) : (s.setPc a).stackEntry j = s.stackEntry j := rfl
@[simp] theorem State.row_setPc (a : Word) (j : Fin 32) : (s.setPc a).row j = s.row j := rfl
@[simp] theorem State.memRead_setPc (a : Word) (j : Word) : (s.setPc a).memRead j = s.memRead j := rfl
@[simp] theorem State.memRead2_setPc (a : Word) (j : Word) : (s.setPc a).memRead2 j = s.memRead2 j := rfl
@[simp] theorem State.indexed_setPc (a : Word) (j : Nat) : (s.setPc a).indexed j = s.indexed j := rfl
@[simp] theorem State.nextDraw_setPc (a : Word) : (s.setPc a).nextDraw = s.nextDraw := rfl

/-! ## advancePc -/

@[simp] theorem State.advancePc_V : (s.advancePc).V = s.V := rfl
@[simp] theorem State.advancePc_pc : (s.advancePc).pc = s.pc + 2 := rfl
@[simp] theorem State.advancePc_I : (s.advancePc).I = s.I := rfl
@[simp] theorem State.advancePc_SP : (s.advancePc).SP = s.SP := rfl
@[simp] theorem State.advancePc_STK : (s.advancePc).STK = s.STK := rfl
@[simp] theorem State.advancePc_DT : (s.advancePc).DT = s.DT := rfl
@[simp] theorem State.advancePc_ST : (s.advancePc).ST = s.ST := rfl
@[simp] theorem State.advancePc_DISP : (s.advancePc).DISP = s.DISP := rfl
@[simp] theorem State.advancePc_KEYS : (s.advancePc).KEYS = s.KEYS := rfl
@[simp] theorem State.advancePc_HALT : (s.advancePc).HALT = s.HALT := rfl
@[simp] theorem State.advancePc_ACC : (s.advancePc).ACC = s.ACC := rfl
@[simp] theorem State.advancePc_MEM : (s.advancePc).MEM = s.MEM := rfl
@[simp] theorem State.advancePc_draws : (s.advancePc).draws = s.draws := rfl
@[simp] theorem State.readV_advancePc (j : Nibble) : (s.advancePc).readV j = s.readV j := rfl
@[simp] theorem State.stackEntry_advancePc (j : Nibble) : (s.advancePc).stackEntry j = s.stackEntry j := rfl
@[simp] theorem State.row_advancePc (j : Fin 32) : (s.advancePc).row j = s.row j := rfl
@[simp] theorem State.memRead_advancePc (j : Word) : (s.advancePc).memRead j = s.memRead j := rfl
@[simp] theorem State.memRead2_advancePc (j : Word) : (s.advancePc).memRead2 j = s.memRead2 j := rfl
@[simp] theorem State.indexed_advancePc (j : Nat) : (s.advancePc).indexed j = s.indexed j := rfl
@[simp] theorem State.nextDraw_advancePc : (s.advancePc).nextDraw = s.nextDraw := rfl

/-! ## setI -/

@[simp] theorem State.setI_V (a : Word) : (s.setI a).V = s.V := rfl
@[simp] theorem State.setI_pc (a : Word) : (s.setI a).pc = s.pc := rfl
@[simp] theorem State.setI_I (a : Word) : (s.setI a).I = a := rfl
@[simp] theorem State.setI_SP (a : Word) : (s.setI a).SP = s.SP := rfl
@[simp] theorem State.setI_STK (a : Word) : (s.setI a).STK = s.STK := rfl
@[simp] theorem State.setI_DT (a : Word) : (s.setI a).DT = s.DT := rfl
@[simp] theorem State.setI_ST (a : Word) : (s.setI a).ST = s.ST := rfl
@[simp] theorem State.setI_DISP (a : Word) : (s.setI a).DISP = s.DISP := rfl
@[simp] theorem State.setI_KEYS (a : Word) : (s.setI a).KEYS = s.KEYS := rfl
@[simp] theorem State.setI_HALT (a : Word) : (s.setI a).HALT = s.HALT := rfl
@[simp] theorem State.setI_ACC (a : Word) : (s.setI a).ACC = s.ACC := rfl
@[simp] theorem State.setI_MEM (a : Word) : (s.setI a).MEM = s.MEM := rfl
@[simp] theorem State.setI_draws (a : Word) : (s.setI a).draws = s.draws := rfl
@[simp] theorem State.readV_setI (a : Word) (j : Nibble) : (s.setI a).readV j = s.readV j := rfl
@[simp] theorem State.stackEntry_setI (a : Word) (j : Nibble) : (s.setI a).stackEntry j = s.stackEntry j := rfl
@[simp] theorem State.row_setI (a : Word) (j : Fin 32) : (s.setI a).row j = s.row j := rfl
@[simp] theorem State.memRead_setI (a : Word) (j : Word) : (s.setI a).memRead j = s.memRead j := rfl
@[simp] theorem State.memRead2_setI (a : Word) (j : Word) : (s.setI a).memRead2 j = s.memRead2 j := rfl
@[simp] theorem State.nextDraw_setI (a : Word) : (s.setI a).nextDraw = s.nextDraw := rfl

/-! ## setDT -/

@[simp] theorem State.setDT_V (v : Byte) : (s.setDT v).V = s.V := rfl
@[simp] theorem State.setDT_pc (v : Byte) : (s.setDT v).pc = s.pc := rfl
@[simp] theorem State.setDT_I (v : Byte) : (s.setDT v).I = s.I := rfl
@[simp] theorem State.setDT_SP (v : Byte) : (s.setDT v).SP = s.SP := rfl
@[simp] theorem State.setDT_STK (v : Byte) : (s.setDT v).STK = s.STK := rfl
@[simp] theorem State.setDT_DT (v : Byte) : (s.setDT v).DT = v := rfl
@[simp] theorem State.setDT_ST (v : Byte) : (s.setDT v).ST = s.ST := rfl
@[simp] theorem State.setDT_DISP (v : Byte) : (s.setDT v).DISP = s.DISP := rfl
@[simp] theorem State.setDT_KEYS (v : Byte) : (s.setDT v).KEYS = s.KEYS := rfl
@[simp] theorem State.setDT_HALT (v : Byte) : (s.setDT v).HALT = s.HALT := rfl
@[simp] theorem State.setDT_ACC (v : Byte) : (s.setDT v).ACC = s.ACC := rfl
@[simp] theorem State.setDT_MEM (v : Byte) : (s.setDT v).MEM = s.MEM := rfl
@[simp] theorem State.setDT_draws (v : Byte) : (s.setDT v).draws = s.draws := rfl
@[simp] theorem State.readV_setDT (v : Byte) (j : Nibble) : (s.setDT v).readV j = s.readV j := rfl
@[simp] theorem State.stackEntry_setDT (v : Byte) (j : Nibble) : (s.setDT v).stackEntry j = s.stackEntry j := rfl
@[simp] theorem State.row_setDT (v : Byte) (j : Fin 32) : (s.setDT v).row j = s.row j := rfl
@[simp] theorem State.memRead_setDT (v : Byte) (j : Word) : (s.setDT v).memRead j = s.memRead j := rfl
@[simp] theorem State.memRead2_setDT (v : Byte) (j : Word) : (s.setDT v).memRead2 j = s.memRead2 j := rfl
@[simp] theorem State.indexed_setDT (v : Byte) (j : Nat) : (s.setDT v).indexed j = s.indexed j := rfl
@[simp] theorem State.nextDraw_setDT (v : Byte) : (s.setDT v).nextDraw = s.nextDraw := rfl

/-! ## setST -/

@[simp] theorem State.setST_V (v : Byte) : (s.setST v).V = s.V := rfl
@[simp] theorem State.setST_pc (v : Byte) : (s.setST v).pc = s.pc := rfl
@[simp] theorem State.setST_I (v : Byte) : (s.setST v).I = s.I := rfl
@[simp] theorem State.setST_SP (v : Byte) : (s.setST v).SP = s.SP := rfl
@[simp] theorem State.setST_STK (v : Byte) : (s.setST v).STK = s.STK := rfl
@[simp] theorem State.setST_DT (v : Byte) : (s.setST v).DT = s.DT := rfl
@[simp] theorem State.setST_ST (v : Byte) : (s.setST v).ST = v := rfl
@[simp] theorem State.setST_DISP (v : Byte) : (s.setST v).DISP = s.DISP := rfl
@[simp] theorem State.setST_KEYS (v : Byte) : (s.setST v).KEYS = s.KEYS := rfl
@[simp] theorem State.setST_HALT (v : Byte) : (s.setST v).HALT = s.HALT := rfl
@[simp] theorem State.setST_ACC (v : Byte) : (s.setST v).ACC = s.ACC := rfl
@[simp] theorem State.setST_MEM (v : Byte) : (s.setST v).MEM = s.MEM := rfl
@[simp] theorem State.setST_draws (v : Byte) : (s.setST v).draws = s.draws := rfl
@[simp] theorem State.readV_setST (v : Byte) (j : Nibble) : (s.setST v).readV j = s.readV j := rfl
@[simp] theorem State.stackEntry_setST (v : Byte) (j : Nibble) : (s.setST v).stackEntry j = s.stackEntry j := rfl
@[simp] theorem State.row_setST (v : Byte) (j : Fin 32) : (s.setST v).row j = s.row j := rfl
@[simp] theorem State.memRead_setST (v : Byte) (j : Word) : (s.setST v).memRead j = s.memRead j := rfl
@[simp] theorem State.memRead2_setST (v : Byte) (j : Word) : (s.setST v).memRead2 j = s.memRead2 j := rfl
@[simp] theorem State.indexed_setST (v : Byte) (j : Nat) : (s.setST v).indexed j = s.indexed j := rfl
@[simp] theorem State.nextDraw_setST (v : Byte) : (s.setST v).nextDraw = s.nextDraw := rfl

/-! ## setKeys -/

@[simp] theorem State.setKeys_V (m : Word) : (s.setKeys m).V = s.V := rfl
@[simp] theorem State.setKeys_pc (m : Word) : (s.setKeys m).pc = s.pc := rfl
@[simp] theorem State.setKeys_I (m : Word) : (s.setKeys m).I = s.I := rfl
@[simp] theorem State.setKeys_SP (m : Word) : (s.setKeys m).SP = s.SP := rfl
@[simp] theorem State.setKeys_STK (m : Word) : (s.setKeys m).STK = s.STK := rfl
@[simp] theorem State.setKeys_DT (m : Word) : (s.setKeys m).DT = s.DT := rfl
@[simp] theorem State.setKeys_ST (m : Word) : (s.setKeys m).ST = s.ST := rfl
@[simp] theorem State.setKeys_DISP (m : Word) : (s.setKeys m).DISP = s.DISP := rfl
@[simp] theorem State.setKeys_KEYS (m : Word) : (s.setKeys m).KEYS = m := rfl
@[simp] theorem State.setKeys_HALT (m : Word) : (s.setKeys m).HALT = s.HALT := rfl
@[simp] theorem State.setKeys_ACC (m : Word) : (s.setKeys m).ACC = s.ACC := rfl
@[simp] theorem State.setKeys_MEM (m : Word) : (s.setKeys m).MEM = s.MEM := rfl
@[simp] theorem State.setKeys_draws (m : Word) : (s.setKeys m).draws = s.draws := rfl
@[simp] theorem State.readV_setKeys (m : Word) (j : Nibble) : (s.setKeys m).readV j = s.readV j := rfl
@[simp] theorem State.stackEntry_setKeys (m : Word) (j : Nibble) : (s.setKeys m).stackEntry j = s.stackEntry j := rfl
@[simp] theorem State.row_setKeys (m : Word) (j : Fin 32) : (s.setKeys m).row j = s.row j := rfl
@[simp] theorem State.memRead_setKeys (m : Word) (j : Word) : (s.setKeys m).memRead j = s.memRead j := rfl
@[simp] theorem State.memRead2_setKeys (m : Word) (j : Word) : (s.setKeys m).memRead2 j = s.memRead2 j := rfl
@[simp] theorem State.indexed_setKeys (m : Word) (j : Nat) : (s.setKeys m).indexed j = s.indexed j := rfl
@[simp] theorem State.nextDraw_setKeys (m : Word) : (s.setKeys m).nextDraw = s.nextDraw := rfl

/-! ## setHalt -/

@[simp] theorem State.setHalt_V (h : Bool) : (s.setHalt h).V = s.V := rfl
@[simp] theorem State.setHalt_pc (h : Bool) : (s.setHalt h).pc = s.pc := rfl
@[simp] theorem State.setHalt_I (h : Bool) : (s.setHalt h).I = s.I := rfl
@[simp] theorem State.setHalt_SP (h : Bool) : (s.setHalt h).SP = s.SP := rfl
@[simp] theorem State.setHalt_STK (h : Bool) : (s.setHalt h).STK = s.STK := rfl
@[simp] theorem State.setHalt_DT (h : Bool) : (s.setHalt h).DT = s.DT := rfl
@[simp] theorem State.setHalt_ST (h : Bool) : (s.setHalt h).ST = s.ST := rfl
@[simp] theorem State.setHalt_DISP (h : Bool) : (s.setHalt h).DISP = s.DISP := rfl
@[simp] theorem State.setHalt_KEYS (h : Bool) : (s.setHalt h).KEYS = s.KEYS := rfl
@[simp] theorem State.setHalt_HALT (h : Bool) : (s.setHalt h).HALT = h := rfl
@[simp] theorem State.setHalt_ACC (h : Bool) : (s.setHalt h).ACC = s.ACC := rfl
@[simp] theorem State.setHalt_MEM (h : Bool) : (s.setHalt h).MEM = s.MEM := rfl
@[simp] theorem State.setHalt_draws (h : Bool) : (s.setHalt h).draws = s.draws := rfl
@[simp] theorem State.readV_setHalt (h : Bool) (j : Nibble) : (s.setHalt h).readV j = s.readV j := rfl
@[simp] theorem State.stackEntry_setHalt (h : Bool) (j : Nibble) : (s.setHalt h).stackEntry j = s.stackEntry j := rfl
@[simp] theorem State.row_setHalt (h : Bool) (j : Fin 32) : (s.setHalt h).row j = s.row j := rfl
@[simp] theorem State.memRead_setHalt (h : Bool) (j : Word) : (s.setHalt h).memRead j = s.memRead j := rfl
@[simp] theorem State.memRead2_setHalt (h : Bool) (j : Word) : (s.setHalt h).memRead2 j = s.memRead2 j := rfl
@[simp] theorem State.indexed_setHalt (h : Bool) (j : Nat) : (s.setHalt h).indexed j = s.indexed j := rfl
@[simp] theorem State.nextDraw_setHalt (h : Bool) : (s.setHalt h).nextDraw = s.nextDraw := rfl

/-! ## push -/

@[simp] theorem State.push_V (v : Word) : (s.push v).V = s.V := rfl
@[simp] theorem State.push_pc (v : Word) : (s.push v).pc = s.pc := rfl
@[simp] theorem State.push_I (v : Word) : (s.push v).I = s.I := rfl
@[simp] theorem State.push_SP (v : Word) : (s.push v).SP = s.SP + 1 := rfl
@[simp] theorem State.push_DT (v : Word) : (s.push v).DT = s.DT := rfl
@[simp] theorem State.push_ST (v : Word) : (s.push v).ST = s.ST := rfl
@[simp] theorem State.push_DISP (v : Word) : (s.push v).DISP = s.DISP := rfl
@[simp] theorem State.push_KEYS (v : Word) : (s.push v).KEYS = s.KEYS := rfl
@[simp] theorem State.push_HALT (v : Word) : (s.push v).HALT = s.HALT := rfl
@[simp] theorem State.push_ACC (v : Word) : (s.push v).ACC = s.ACC := rfl
@[simp] theorem State.push_MEM (v : Word) : (s.push v).MEM = s.MEM := rfl
@[simp] theorem State.push_draws (v : Word) : (s.push v).draws = s.draws := rfl
@[simp] theorem State.readV_push (v : Word) (j : Nibble) : (s.push v).readV j = s.readV j := rfl
@[simp] theorem State.row_push (v : Word) (j : Fin 32) : (s.push v).row j = s.row j := rfl
@[simp] theorem State.memRead_push (v : Word) (j : Word) : (s.push v).memRead j = s.memRead j := rfl
@[simp] theorem State.memRead2_push (v : Word) (j : Word) : (s.push v).memRead2 j = s.memRead2 j := rfl
@[simp] theorem State.indexed_push (v : Word) (j : Nat) : (s.push v).indexed j = s.indexed j := rfl
@[simp] theorem State.nextDraw_push (v : Word) : (s.push v).nextDraw = s.nextDraw := rfl

/-! ## dropTop -/

@[simp] theorem State.dropTop_V : (s.dropTop).V = s.V := rfl
@[simp] theorem State.dropTop_pc : (s.dropTop).pc = s.pc := rfl
@[simp] theorem State.dropTop_I : (s.dropTop).I = s.I := rfl
@[simp] theorem State.dropTop_SP : (s.dropTop).SP = s.SP - 1 := rfl
@[simp] theorem State.dropTop_STK : (s.dropTop).STK = s.STK := rfl
@[simp] theorem State.dropTop_DT : (s.dropTop).DT = s.DT := rfl
@[simp] theorem State.dropTop_ST : (s.dropTop).ST = s.ST := rfl
@[simp] theorem State.dropTop_DISP : (s.dropTop).DISP = s.DISP := rfl
@[simp] theorem State.dropTop_KEYS : (s.dropTop).KEYS = s.KEYS := rfl
@[simp] theorem State.dropTop_HALT : (s.dropTop).HALT = s.HALT := rfl
@[simp] theorem State.dropTop_ACC : (s.dropTop).ACC = s.ACC := rfl
@[simp] theorem State.dropTop_MEM : (s.dropTop).MEM = s.MEM := rfl
@[simp] theorem State.dropTop_draws : (s.dropTop).draws = s.draws := rfl
@[simp] theorem State.readV_dropTop (j : Nibble) : (s.dropTop).readV j = s.readV j := rfl
@[simp] theorem State.stackEntry_dropTop (j : Nibble) : (s.dropTop).stackEntry j = s.stackEntry j := rfl
@[simp] theorem State.row_dropTop (j : Fin 32) : (s.dropTop).row j = s.row j := rfl
@[simp] theorem State.memRead_dropTop (j : Word) : (s.dropTop).memRead j = s.memRead j := rfl
@[simp] theorem State.memRead2_dropTop (j : Word) : (s.dropTop).memRead2 j = s.memRead2 j := rfl
@[simp] theorem State.indexed_dropTop (j : Nat) : (s.dropTop).indexed j = s.indexed j := rfl
@[simp] theorem State.nextDraw_dropTop : (s.dropTop).nextDraw = s.nextDraw := rfl

/-! ## setRow -/

@[simp] theorem State.setRow_V (r : Fin 32) (w : Row64) : (s.setRow r w).V = s.V := rfl
@[simp] theorem State.setRow_pc (r : Fin 32) (w : Row64) : (s.setRow r w).pc = s.pc := rfl
@[simp] theorem State.setRow_I (r : Fin 32) (w : Row64) : (s.setRow r w).I = s.I := rfl
@[simp] theorem State.setRow_SP (r : Fin 32) (w : Row64) : (s.setRow r w).SP = s.SP := rfl
@[simp] theorem State.setRow_STK (r : Fin 32) (w : Row64) : (s.setRow r w).STK = s.STK := rfl
@[simp] theorem State.setRow_DT (r : Fin 32) (w : Row64) : (s.setRow r w).DT = s.DT := rfl
@[simp] theorem State.setRow_ST (r : Fin 32) (w : Row64) : (s.setRow r w).ST = s.ST := rfl
@[simp] theorem State.setRow_KEYS (r : Fin 32) (w : Row64) : (s.setRow r w).KEYS = s.KEYS := rfl
@[simp] theorem State.setRow_HALT (r : Fin 32) (w : Row64) : (s.setRow r w).HALT = s.HALT := rfl
@[simp] theorem State.setRow_ACC (r : Fin 32) (w : Row64) : (s.setRow r w).ACC = s.ACC := rfl
@[simp] theorem State.setRow_MEM (r : Fin 32) (w : Row64) : (s.setRow r w).MEM = s.MEM := rfl
@[simp] theorem State.setRow_draws (r : Fin 32) (w : Row64) : (s.setRow r w).draws = s.draws := rfl
@[simp] theorem State.readV_setRow (r : Fin 32) (w : Row64) (j : Nibble) : (s.setRow r w).readV j = s.readV j := rfl
@[simp] theorem State.stackEntry_setRow (r : Fin 32) (w : Row64) (j : Nibble) : (s.setRow r w).stackEntry j = s.stackEntry j := rfl
@[simp] theorem State.memRead_setRow (r : Fin 32) (w : Row64) (j : Word) : (s.setRow r w).memRead j = s.memRead j := rfl
@[simp] theorem State.memRead2_setRow (r : Fin 32) (w : Row64) (j : Word) : (s.setRow r w).memRead2 j = s.memRead2 j := rfl
@[simp] theorem State.indexed_setRow (r : Fin 32) (w : Row64) (j : Nat) : (s.setRow r w).indexed j = s.indexed j := rfl
@[simp] theorem State.nextDraw_setRow (r : Fin 32) (w : Row64) : (s.setRow r w).nextDraw = s.nextDraw := rfl

/-! ## clearRows -/

@[simp] theorem State.clearRows_V : (s.clearRows).V = s.V := rfl
@[simp] theorem State.clearRows_pc : (s.clearRows).pc = s.pc := rfl
@[simp] theorem State.clearRows_I : (s.clearRows).I = s.I := rfl
@[simp] theorem State.clearRows_SP : (s.clearRows).SP = s.SP := rfl
@[simp] theorem State.clearRows_STK : (s.clearRows).STK = s.STK := rfl
@[simp] theorem State.clearRows_DT : (s.clearRows).DT = s.DT := rfl
@[simp] theorem State.clearRows_ST : (s.clearRows).ST = s.ST := rfl
@[simp] theorem State.clearRows_KEYS : (s.clearRows).KEYS = s.KEYS := rfl
@[simp] theorem State.clearRows_HALT : (s.clearRows).HALT = s.HALT := rfl
@[simp] theorem State.clearRows_ACC : (s.clearRows).ACC = s.ACC := rfl
@[simp] theorem State.clearRows_MEM : (s.clearRows).MEM = s.MEM := rfl
@[simp] theorem State.clearRows_draws : (s.clearRows).draws = s.draws := rfl
@[simp] theorem State.readV_clearRows (j : Nibble) : (s.clearRows).readV j = s.readV j := rfl
@[simp] theorem State.stackEntry_clearRows (j : Nibble) : (s.clearRows).stackEntry j = s.stackEntry j := rfl
@[simp] theorem State.memRead_clearRows (j : Word) : (s.clearRows).memRead j = s.memRead j := rfl
@[simp] theorem State.memRead2_clearRows (j : Word) : (s.clearRows).memRead2 j = s.memRead2 j := rfl
@[simp] theorem State.indexed_clearRows (j : Nat) : (s.clearRows).indexed j = s.indexed j := rfl
@[simp] theorem State.nextDraw_clearRows : (s.clearRows).nextDraw = s.nextDraw := rfl

/-! ## tookDraw -/

@[simp] theorem State.tookDraw_V : (s.tookDraw).V = s.V := rfl
@[simp] theorem State.tookDraw_pc : (s.tookDraw).pc = s.pc := rfl
@[simp] theorem State.tookDraw_I : (s.tookDraw).I = s.I := rfl
@[simp] theorem State.tookDraw_SP : (s.tookDraw).SP = s.SP := rfl
@[simp] theorem State.tookDraw_STK : (s.tookDraw).STK = s.STK := rfl
@[simp] theorem State.tookDraw_DT : (s.tookDraw).DT = s.DT := rfl
@[simp] theorem State.tookDraw_ST : (s.tookDraw).ST = s.ST := rfl
@[simp] theorem State.tookDraw_DISP : (s.tookDraw).DISP = s.DISP := rfl
@[simp] theorem State.tookDraw_KEYS : (s.tookDraw).KEYS = s.KEYS := rfl
@[simp] theorem State.tookDraw_HALT : (s.tookDraw).HALT = s.HALT := rfl
@[simp] theorem State.tookDraw_ACC : (s.tookDraw).ACC = s.ACC := rfl
@[simp] theorem State.tookDraw_MEM : (s.tookDraw).MEM = s.MEM := rfl
@[simp] theorem State.tookDraw_draws : (s.tookDraw).draws = s.draws + 1 := rfl
@[simp] theorem State.readV_tookDraw (j : Nibble) : (s.tookDraw).readV j = s.readV j := rfl
@[simp] theorem State.stackEntry_tookDraw (j : Nibble) : (s.tookDraw).stackEntry j = s.stackEntry j := rfl
@[simp] theorem State.row_tookDraw (j : Fin 32) : (s.tookDraw).row j = s.row j := rfl
@[simp] theorem State.memRead_tookDraw (j : Word) : (s.tookDraw).memRead j = s.memRead j := rfl
@[simp] theorem State.memRead2_tookDraw (j : Word) : (s.tookDraw).memRead2 j = s.memRead2 j := rfl
@[simp] theorem State.indexed_tookDraw (j : Nat) : (s.tookDraw).indexed j = s.indexed j := rfl

/-! ## tick -/

@[simp] theorem State.tick_V : (s.tick).V = s.V := rfl
@[simp] theorem State.tick_pc : (s.tick).pc = s.pc := rfl
@[simp] theorem State.tick_I : (s.tick).I = s.I := rfl
@[simp] theorem State.tick_SP : (s.tick).SP = s.SP := rfl
@[simp] theorem State.tick_STK : (s.tick).STK = s.STK := rfl
@[simp] theorem State.tick_DT : (s.tick).DT = if s.DT ≠ 0 then s.DT - 1 else s.DT := rfl
@[simp] theorem State.tick_ST : (s.tick).ST = if s.ST ≠ 0 then s.ST - 1 else s.ST := rfl
@[simp] theorem State.tick_DISP : (s.tick).DISP = s.DISP := rfl
@[simp] theorem State.tick_KEYS : (s.tick).KEYS = s.KEYS := rfl
@[simp] theorem State.tick_HALT : (s.tick).HALT = s.HALT := rfl
@[simp] theorem State.tick_ACC : (s.tick).ACC = s.ACC := rfl
@[simp] theorem State.tick_MEM : (s.tick).MEM = s.MEM := rfl
@[simp] theorem State.tick_draws : (s.tick).draws = s.draws := rfl
@[simp] theorem State.readV_tick (j : Nibble) : (s.tick).readV j = s.readV j := rfl
@[simp] theorem State.stackEntry_tick (j : Nibble) : (s.tick).stackEntry j = s.stackEntry j := rfl
@[simp] theorem State.row_tick (j : Fin 32) : (s.tick).row j = s.row j := rfl
@[simp] theorem State.memRead_tick (j : Word) : (s.tick).memRead j = s.memRead j := rfl
@[simp] theorem State.memRead2_tick (j : Word) : (s.tick).memRead2 j = s.memRead2 j := rfl
@[simp] theorem State.indexed_tick (j : Nat) : (s.tick).indexed j = s.indexed j := rfl
@[simp] theorem State.nextDraw_tick : (s.tick).nextDraw = s.nextDraw := rfl

/-! ## setAcc -/

@[simp] theorem State.setAcc_V (a : Int) : (s.setAcc a).V = s.V := rfl
@[simp] theorem State.setAcc_pc (a : Int) : (s.setAcc a).pc = s.pc := rfl
@[simp] theorem State.setAcc_I (a : Int) : (s.setAcc a).I = s.I := rfl
@[simp] theorem State.setAcc_SP (a : Int) : (s.setAcc a).SP = s.SP := rfl
@[simp] theorem State.setAcc_STK (a : Int) : (s.setAcc a).STK = s.STK := rfl
@[simp] theorem State.setAcc_DT (a : Int) : (s.setAcc a).DT = s.DT := rfl
@[simp] theorem State.setAcc_ST (a : Int) : (s.setAcc a).ST = s.ST := rfl
@[simp] theorem State.setAcc_DISP (a : Int) : (s.setAcc a).DISP = s.DISP := rfl
@[simp] theorem State.setAcc_KEYS (a : Int) : (s.setAcc a).KEYS = s.KEYS := rfl
@[simp] theorem State.setAcc_HALT (a : Int) : (s.setAcc a).HALT = s.HALT := rfl
@[simp] theorem State.setAcc_ACC (a : Int) : (s.setAcc a).ACC = a := rfl
@[simp] theorem State.setAcc_MEM (a : Int) : (s.setAcc a).MEM = s.MEM := rfl
@[simp] theorem State.setAcc_draws (a : Int) : (s.setAcc a).draws = s.draws := rfl
@[simp] theorem State.readV_setAcc (a : Int) (j : Nibble) : (s.setAcc a).readV j = s.readV j := rfl
@[simp] theorem State.stackEntry_setAcc (a : Int) (j : Nibble) : (s.setAcc a).stackEntry j = s.stackEntry j := rfl
@[simp] theorem State.row_setAcc (a : Int) (j : Fin 32) : (s.setAcc a).row j = s.row j := rfl
@[simp] theorem State.memRead_setAcc (a : Int) (j : Word) : (s.setAcc a).memRead j = s.memRead j := rfl
@[simp] theorem State.memRead2_setAcc (a : Int) (j : Word) : (s.setAcc a).memRead2 j = s.memRead2 j := rfl
@[simp] theorem State.indexed_setAcc (a : Int) (j : Nat) : (s.setAcc a).indexed j = s.indexed j := rfl
@[simp] theorem State.nextDraw_setAcc (a : Int) : (s.setAcc a).nextDraw = s.nextDraw := rfl

/-! ## Reads that an update touches -/

theorem State.readV_writeV (x j : Nibble) (v : Byte) : (s.writeV x v).readV j = if j = x then v else s.readV j := by
  by_cases h : j = x
  · subst h; simp [State.readV, State.writeV]
  · have : x.toNat ≠ j.toNat := fun e => h (BitVec.eq_of_toNat_eq e.symm)
    simp [State.readV, State.writeV, h, Vector.getElem_set_ne, this]

@[simp] theorem State.readV_writeV_same (x : Nibble) (v : Byte) : (s.writeV x v).readV x = v := by
  simp [State.readV_writeV]

theorem State.readV_writeV_of_ne {x j : Nibble} (v : Byte) (h : j ≠ x) : (s.writeV x v).readV j = s.readV j := by
  simp [State.readV_writeV, h]

theorem State.stackEntry_push (j : Nibble) (v : Word) :
    (s.push v).stackEntry j = if j = s.SP then v else s.stackEntry j := by
  by_cases h : j = s.SP
  · subst h; simp [State.stackEntry, State.push]
  · have : s.SP.toNat ≠ j.toNat := fun e => h (BitVec.eq_of_toNat_eq e.symm)
    simp [State.stackEntry, State.push, h, Vector.getElem_set_ne, this]

theorem State.row_setRow (r j : Fin 32) (w : Row64) : (s.setRow r w).row j = if j = r then w else s.row j := by
  by_cases h : j = r
  · subst h; simp [State.row, State.setRow]
  · have : r.val ≠ j.val := fun e => h (Fin.ext e.symm)
    simp [State.row, State.setRow, h, Vector.getElem_set_ne, this]

@[simp] theorem State.row_clearRows (j : Fin 32) : (s.clearRows).row j = 0 := by
  simp [State.row, State.clearRows]

end Sys2Proof.Machine
end

