-- ==== Sys2Proof/Laws/Memory.lean ====
section
/-! SUPPORT. The laws of MEM: a read after a write, what a write leaves alone, and that every memory operation keeps the
canonical form. The read laws hold of every list, canonical or not. -/

namespace Sys2Proof.Machine

theorem Memory.read_erase_other (m : Memory) {a b : Nat} (h : b ≠ a) :
    Memory.read (Memory.erase m a) b = Memory.read m b := by
  induction m with
  | nil => rfl
  | cons c m ih =>
    by_cases hc : c.1 = a
    · have hb : c.1 ≠ b := fun e => h (by omega)
      have hab : ¬ a = b := fun e => h e.symm
      simpa [Memory.erase, hc, Memory.read, hab] using ih
    · by_cases hb : c.1 = b
      · simp [Memory.erase, Memory.read, hb, h]
      · simpa [Memory.erase, hc, Memory.read, hb] using ih

theorem Memory.read_erase_same (m : Memory) (a : Nat) : Memory.read (Memory.erase m a) a = Memory.blank a := by
  induction m with
  | nil => rfl
  | cons c m ih =>
    by_cases hc : c.1 = a
    · simpa [Memory.erase, hc, Memory.read] using ih
    · simpa [Memory.erase, hc, Memory.read] using ih

theorem Memory.read_insert_other (m : Memory) {a b : Nat} (v : Byte) (h : b ≠ a) :
    Memory.read (Memory.insert m a v) b = Memory.read m b := by
  induction m with
  | nil => simp [Memory.insert, Memory.read, h.symm]
  | cons c m ih =>
    by_cases hc : a < c.1
    · simp [Memory.insert, hc, Memory.read, h.symm]
    · simp only [Memory.insert, if_neg hc, Memory.read, ih]

theorem Memory.read_insert_same (m : Memory) (a : Nat) (v : Byte) (h : ∀ c ∈ m, c.1 ≠ a) :
    Memory.read (Memory.insert m a v) a = v := by
  induction m with
  | nil => simp [Memory.insert, Memory.read]
  | cons c m ih =>
    have hne : c.1 ≠ a := h c (by simp)
    have := ih (fun d hd => h d (by simp [hd]))
    by_cases hc : a < c.1 <;> simp [Memory.insert, hc, Memory.read, hne, this]

theorem Memory.mem_erase {m : Memory} {a : Nat} {c : Host.Cell} :
    c ∈ Memory.erase m a ↔ c ∈ m ∧ c.1 ≠ a := by
  simp [Memory.erase]

@[simp] theorem Memory.read_write_same (m : Memory) (a : Nat) (v : Byte) :
    Memory.read (Memory.write m a v) a = v := by
  unfold Memory.write
  split
  · rename_i h; rw [Memory.read_erase_same, h]
  · exact Memory.read_insert_same _ _ _ (fun c hc => (Memory.mem_erase.mp hc).2)

theorem Memory.read_write_other (m : Memory) {a b : Nat} (v : Byte) (h : b ≠ a) :
    Memory.read (Memory.write m a v) b = Memory.read m b := by
  unfold Memory.write
  split
  · exact Memory.read_erase_other m h
  · rw [Memory.read_insert_other _ v h, Memory.read_erase_other m h]

/-- A read after a write, in one lemma. -/
theorem Memory.read_write (m : Memory) (a b : Nat) (v : Byte) :
    Memory.read (Memory.write m a v) b = if b = a then v else Memory.read m b := by
  by_cases h : b = a
  · subst h; simp
  · simp [h, Memory.read_write_other]

theorem Memory.mem_insert {m : Memory} {a : Nat} {v : Byte} {c : Host.Cell} :
    c ∈ Memory.insert m a v ↔ c = (a, v) ∨ c ∈ m := by
  induction m with
  | nil => simp [Memory.insert]
  | cons d m ih =>
    by_cases hd : a < d.1
    · simp [Memory.insert, hd]
    · simp only [Memory.insert, hd, if_false, List.mem_cons, ih]
      tauto

theorem Memory.pairwise_insert {m : Memory} {a : Nat} (v : Byte) (h : m.Pairwise (fun c d => c.1 < d.1))
    (ha : ∀ c ∈ m, c.1 ≠ a) : (Memory.insert m a v).Pairwise (fun c d => c.1 < d.1) := by
  induction m with
  | nil => simp [Memory.insert]
  | cons d m ih =>
    obtain ⟨hd, hm⟩ := List.pairwise_cons.mp h
    have hda : d.1 ≠ a := ha d (by simp)
    by_cases hlt : a < d.1
    · simp only [Memory.insert, hlt, if_true]
      refine List.pairwise_cons.mpr ⟨fun c hc => ?_, h⟩
      rcases List.mem_cons.mp hc with rfl | hc
      · exact hlt
      · exact Nat.lt_trans hlt (hd c hc)
    · simp only [Memory.insert, hlt, if_false]
      refine List.pairwise_cons.mpr ⟨fun c hc => ?_, ih hm (fun c hc => ha c (by simp [hc]))⟩
      rcases Memory.mem_insert.mp hc with rfl | hc
      · show d.1 < a; omega
      · exact hd c hc

/-- A write of a cell in range keeps the canonical form. -/
theorem Memory.write_wf {m : Memory} (h : Memory.wf m) {a : Nat} (ha : a < Config.memSize) (v : Byte) :
    Memory.wf (Memory.write m a v) := by
  have he : (Memory.erase m a).Pairwise (fun c d => c.1 < d.1) := h.1.filter _
  unfold Memory.write
  split
  · exact ⟨he, fun c hc => h.2 c (Memory.mem_erase.mp hc).1⟩
  · rename_i hv
    refine ⟨Memory.pairwise_insert v he (fun c hc => (Memory.mem_erase.mp hc).2), fun c hc => ?_⟩
    rcases Memory.mem_insert.mp hc with rfl | hc
    · exact ⟨ha, hv⟩
    · exact h.2 c (Memory.mem_erase.mp hc).1

/-- Writing a list of bytes that ends inside MEM keeps the canonical form. -/
theorem Memory.writeList_wf {m : Memory} (h : Memory.wf m) (a : Nat) (bs : List Byte)
    (hb : a + bs.length ≤ Config.memSize) : Memory.wf (Memory.writeList m a bs) := by
  induction bs generalizing m a with
  | nil => exact h
  | cons b bs ih =>
    simp only [List.length_cons] at hb
    exact ih (Memory.write_wf h (by omega) b) (a + 1) (by omega)

/-- A list of bytes written is read back, and every cell outside it is left alone. -/
theorem Memory.read_writeList (m : Memory) (a : Nat) (bs : List Byte) (b : Nat) :
    Memory.read (Memory.writeList m a bs) b =
      if a ≤ b ∧ b < a + bs.length then bs.getD (b - a) 0 else Memory.read m b := by
  induction bs generalizing m a with
  | nil =>
    have : ¬ (a ≤ b ∧ b < a + ([] : List Byte).length) := by simp
    simp only [Memory.writeList, if_neg this]
  | cons x bs ih =>
    simp only [Memory.writeList, ih, Memory.read_write, List.length_cons]
    by_cases h1 : b = a
    · subst h1
      simp
    · by_cases h2 : a + 1 ≤ b ∧ b < a + 1 + bs.length
      · obtain ⟨k, hk⟩ : ∃ k, b - a = k + 1 := ⟨b - a - 1, by omega⟩
        have hk' : b - (a + 1) = k := by omega
        simp [h2, (by omega : a ≤ b ∧ b < a + (bs.length + 1)), hk, hk']
      · rw [if_neg h2, if_neg h1, if_neg (by omega)]

/-- The cell an address selects exists (R52: the port has 12 address lines). -/
theorem cellOf_lt (a : Word) : cellOf a < Config.memSize := Nat.mod_lt _ (by decide)

theorem State.memWrite_wf {s : State} (h : Memory.wf s.MEM) (a : Word) (v : Byte) : Memory.wf (s.memWrite a v).MEM :=
  Memory.write_wf h (cellOf_lt a) v

theorem State.memRead_memWrite (s : State) (a b : Word) (v : Byte) :
    (s.memWrite a v).memRead b = if cellOf b = cellOf a then v else s.memRead b :=
  Memory.read_write _ _ _ _

/-- What INIT admits, as a bound (R201). -/
theorem Rom.wellFormed_iff (rom : List Byte) : Rom.wellFormed rom = true ↔ rom.length ≤ 3584 := decide_eq_true_iff

theorem Rom.wellFormed_eq_false_iff (rom : List Byte) : Rom.wellFormed rom = false ↔ 3584 < rom.length := by
  rw [← Bool.not_eq_true, Rom.wellFormed_iff]; omega

theorem reset_memory_wf : Memory.wf State.reset.MEM := by decide

/-- The font has the 80 bytes of R203. -/
theorem font_length : font.length = Config.fontSize := by decide

/-- INIT's memory is canonical for every font of at most 80 used bytes and every ROM that fits. -/
theorem initMemory_wf (fnt rom : List Byte) (h : Rom.wellFormed rom = true) : Memory.wf (initMemory fnt rom) := by
  have hr := (Rom.wellFormed_iff rom).mp h
  refine Memory.writeList_wf (Memory.writeList_wf (Memory.writeList_wf (by decide) _ _ (by simp [Config.fontSize, Config.memSize])) _ _ ?_) _ _ ?_
  · show 512 + rom.length ≤ 4096; omega
  · show 0 + (fnt.take 80).length ≤ 4096; simp

end Sys2Proof.Machine
end

