-- ==== Sys2Proof/Laws/Ops.lean ====
section
/-! SUPPORT. For each shared operation, what it can do, said once: the timer update, a step, a skip, the flag frame, the
store, load and draw loops. Later proofs cite these lemmas instead of unfolding the operation. -/

namespace Sys2Proof.Machine

/-! ## Addresses -/

/-- The cell of an effective address: `(I + index) mod 4096` (R146). -/
theorem cellOf_indexed (s : State) (k : Nat) : cellOf (s.indexed k) = (s.I.toNat + k) % 4096 := by
  simp only [cellOf, State.indexed, Config.memSize, BitVec.toNat_add, BitVec.toNat_ofNat]
  omega

/-- Two effective addresses of one instruction that are less than 4096 apart select different cells. -/
theorem cellOf_indexed_inj (s : State) {j k : Nat} (hj : j < 4096) (hk : k < 4096)
    (h : cellOf (s.indexed j) = cellOf (s.indexed k)) : j = k := by
  rw [cellOf_indexed, cellOf_indexed] at h
  omega

theorem addrOperand_toNat (nnn : Addr12) : (addrOperand nnn).toNat = nnn.toNat := by
  simp only [addrOperand, BitVec.toNat_setWidth]; omega

theorem byteOperand_toNat (b : Byte) : (byteOperand b).toNat = b.toNat := by
  simp only [byteOperand, BitVec.toNat_setWidth]; omega

/-! ## Skips (R104 to R108) -/

@[simp] theorem State.skipIf_true (s : State) : s.skipIf true = s.advancePc := rfl
@[simp] theorem State.skipIf_false (s : State) : s.skipIf false = s := rfl

/-- A skip does nothing but choose the pc. -/
theorem State.skipIf_eq (c : Bool) (s : State) : s.skipIf c = s.setPc (if c then s.pc + 2 else s.pc) := by
  cases c <;> rfl

/-! ## The flag frame (R126) -/

/-- Under `operandsFirst` the flag and the result are functions of the values before. -/
theorem State.flagOp_operandsFirst (f : Byte → Byte → Byte × Byte) (x y : Nibble) (s : State) :
    s.flagOp .operandsFirst f x y = (s.writeV vf (f (s.readV x) (s.readV y)).1).writeV x (f (s.readV x) (s.readV y)).2 :=
  rfl

/-- What VF and Vx hold afterwards, and that no other register changes. -/
theorem State.readV_flagOp (f : Byte → Byte → Byte × Byte) (x y j : Nibble) (s : State) :
    (s.flagOp .operandsFirst f x y).readV j =
      if j = x then (f (s.readV x) (s.readV y)).2
      else if j = vf then (f (s.readV x) (s.readV y)).1
      else s.readV j := by
  rw [State.flagOp_operandsFirst, State.readV_writeV, State.readV_writeV]

/-- Everything but V is left alone, under either order. -/
theorem State.flagOp_eq (o : Config.AliasOrder) (f : Byte → Byte → Byte × Byte) (x y : Nibble) (s : State) :
    s.flagOp o f x y = { s with V := (s.flagOp o f x y).V } := by
  cases o <;> rfl

theorem flagByte_toNat (b : Bool) : (flagByte b).toNat = if b then 1 else 0 := by cases b <;> rfl

/-! ## The store and load loops (R144, R145) -/

/-- The store loop writes nothing but MEM. -/
theorem State.storeFirst_eq (k : Nat) (s : State) :
    State.storeFirst k s = { s with MEM := (State.storeFirst k s).MEM } := by
  induction k with
  | zero => rfl
  | succ k ih => rw [State.storeFirst, ih]; rfl

@[simp] theorem State.storeFirst_I (k : Nat) (s : State) : (State.storeFirst k s).I = s.I := by
  rw [State.storeFirst_eq]

@[simp] theorem State.indexed_storeFirst (k j : Nat) (s : State) :
    (State.storeFirst k s).indexed j = s.indexed j := by
  simp [State.indexed]

@[simp] theorem State.readV_storeFirst (k : Nat) (j : Nibble) (s : State) :
    (State.storeFirst k s).readV j = s.readV j := by
  rw [State.storeFirst_eq]; rfl

/-- A cell that the store loop does not reach keeps its byte. -/
theorem State.read_storeFirst_other (k : Nat) (s : State) (a : Nat) (h : ∀ j < k, a ≠ cellOf (s.indexed j)) :
    Memory.read (State.storeFirst k s).MEM a = Memory.read s.MEM a := by
  induction k with
  | zero => rfl
  | succ k ih =>
    rw [State.storeFirst, State.memWrite_MEM, Memory.read_write, State.indexed_storeFirst, if_neg (h k (by omega)),
      ih (fun j hj => h j (by omega))]

/-- Register j lands in the cell of `I + j`. -/
theorem State.read_storeFirst_same (k : Nat) (hk : k ≤ 16) (s : State) (j : Nat) (hj : j < k) :
    Memory.read (State.storeFirst k s).MEM (cellOf (s.indexed j)) = s.readV (BitVec.ofNat 4 j) := by
  induction k with
  | zero => omega
  | succ k ih =>
    rw [State.storeFirst, State.memWrite_MEM, Memory.read_write, State.indexed_storeFirst, State.readV_storeFirst]
    by_cases h : j = k
    · simp [h]
    · rw [if_neg (fun e => h (cellOf_indexed_inj s (by omega) (by omega) e)), ih (by omega) (by omega)]

theorem State.storeFirst_wf (k : Nat) {s : State} (h : Memory.wf s.MEM) : Memory.wf (State.storeFirst k s).MEM := by
  induction k with
  | zero => exact h
  | succ k ih => exact Memory.write_wf ih (cellOf_lt _) _

/-- The load loop writes nothing but V. -/
theorem State.loadFirst_eq (k : Nat) (s : State) :
    State.loadFirst k s = { s with V := (State.loadFirst k s).V } := by
  induction k with
  | zero => rfl
  | succ k ih => rw [State.loadFirst, ih]; rfl

@[simp] theorem State.loadFirst_I (k : Nat) (s : State) : (State.loadFirst k s).I = s.I := by
  rw [State.loadFirst_eq]

@[simp] theorem State.loadFirst_MEM (k : Nat) (s : State) : (State.loadFirst k s).MEM = s.MEM := by
  rw [State.loadFirst_eq]

@[simp] theorem State.indexed_loadFirst (k j : Nat) (s : State) : (State.loadFirst k s).indexed j = s.indexed j := by
  simp [State.indexed]

@[simp] theorem State.memRead_loadFirst (k : Nat) (a : Word) (s : State) :
    (State.loadFirst k s).memRead a = s.memRead a := by
  simp [State.memRead]

/-- The registers below k receive the bytes at `I`, `I + 1`, ...; the others keep their values. -/
theorem State.readV_loadFirst (k : Nat) (hk : k ≤ 16) (s : State) (j : Nibble) :
    (State.loadFirst k s).readV j = if j.toNat < k then s.memRead (s.indexed j.toNat) else s.readV j := by
  induction k with
  | zero => simp [State.loadFirst]
  | succ k ih =>
    rw [State.loadFirst, State.readV_writeV, ih (by omega), State.memRead_loadFirst, State.indexed_loadFirst]
    have hk4 : (BitVec.ofNat 4 k).toNat = k := by simp; omega
    by_cases h : j = BitVec.ofNat 4 k
    · subst h; simp [hk4]
    · have : j.toNat ≠ k := fun e => h (BitVec.eq_of_toNat_eq (by rw [hk4, e]))
      rw [if_neg h]
      by_cases h1 : j.toNat < k
      · rw [if_pos h1, if_pos (by omega)]
      · rw [if_neg h1, if_neg (by omega)]

/-! ## The draw loop (R152) -/

/-- One sprite row writes nothing but VF and the rows of the display. -/
theorem State.drawRow_eq (cx cy r : Nat) (s : State) :
    State.drawRow cx cy r s = { s with V := (State.drawRow cx cy r s).V, DISP := (State.drawRow cx cy r s).DISP } := by
  unfold State.drawRow
  dsimp only
  split <;> rfl

/-- The draw loop writes nothing but VF and the rows of the display. -/
theorem State.drawFirst_eq (cx cy k : Nat) (s : State) :
    State.drawFirst cx cy k s =
      { s with V := (State.drawFirst cx cy k s).V, DISP := (State.drawFirst cx cy k s).DISP } := by
  induction k with
  | zero => rfl
  | succ k ih => rw [State.drawFirst, State.drawRow_eq, ih]

@[simp] theorem State.indexed_drawFirst (cx cy k j : Nat) (s : State) :
    (State.drawFirst cx cy k s).indexed j = s.indexed j := by
  rw [State.drawFirst_eq]; rfl

@[simp] theorem State.memRead_drawFirst (cx cy k : Nat) (a : Word) (s : State) :
    (State.drawFirst cx cy k s).memRead a = s.memRead a := by
  rw [State.drawFirst_eq]; rfl

/-- One sprite row is XORed into its target row. -/
theorem State.row_drawRow (cx cy r : Nat) (s : State) (j : Fin 32) :
    (State.drawRow cx cy r s).row j =
      if j = spriteTarget cy r then s.row j ^^^ spriteWord (s.memRead (s.indexed r)) cx else s.row j := by
  unfold State.drawRow
  dsimp only
  rw [State.row_setRow]
  by_cases h : j = spriteTarget cy r
  · simp [h]
  · rw [if_neg h, if_neg h]; split <;> rfl

/-- VF after one sprite row: 1 if the row collides, else as before. -/
theorem State.readV_drawRow (cx cy r : Nat) (s : State) (j : Nibble) :
    (State.drawRow cx cy r s).readV j =
      if j = vf ∧ spriteWord (s.memRead (s.indexed r)) cx &&& s.row (spriteTarget cy r) ≠ 0 then 1 else s.readV j := by
  unfold State.drawRow
  dsimp only
  by_cases h : spriteWord (s.memRead (s.indexed r)) cx &&& s.row (spriteTarget cy r) = 0
  · simp [h]
  · simp only [h, ne_eq, not_false_eq_true, if_true, and_true, State.readV_setRow, State.readV_writeV]

/-- Two sprite rows less than 32 apart land on different rows (R153 c). -/
theorem spriteTarget_inj (cy : Nat) {j k : Nat} (hj : j < 32) (hk : k < 32)
    (h : spriteTarget cy j = spriteTarget cy k) : j = k := by
  have := congrArg Fin.val h
  simp only [spriteTarget, Fin.ofNat] at this
  omega

/-- A row of the display that the loop does not reach is unchanged. -/
theorem State.row_drawFirst_other (cx cy k : Nat) (s : State) (j : Fin 32) (h : ∀ r < k, j ≠ spriteTarget cy r) :
    (State.drawFirst cx cy k s).row j = s.row j := by
  induction k with
  | zero => rfl
  | succ k ih => rw [State.drawFirst, State.row_drawRow, if_neg (h k (by omega)), ih (fun r hr => h r (by omega))]

/-- The row that sprite row r lands on is XORed with its word once. -/
theorem State.row_drawFirst_same (cx cy k : Nat) (hk : k ≤ 32) (s : State) (r : Nat) (hr : r < k) :
    (State.drawFirst cx cy k s).row (spriteTarget cy r) =
      s.row (spriteTarget cy r) ^^^ spriteWord (s.memRead (s.indexed r)) cx := by
  induction k with
  | zero => omega
  | succ k ih =>
    rw [State.drawFirst, State.row_drawRow]
    by_cases h : r = k
    · subst h
      rw [if_pos rfl, State.memRead_drawFirst, State.indexed_drawFirst,
        State.row_drawFirst_other _ _ _ _ _ (fun q hq e => by have := spriteTarget_inj cy (by omega) (by omega) e; omega)]
    · rw [if_neg (fun e => h (spriteTarget_inj cy (by omega) (by omega) e)), ih (by omega) (by omega)]

/-- VF after the loop: 1 if some sprite row collides, else as before; no other register changes. -/
theorem State.readV_drawFirst (cx cy k : Nat) (hk : k ≤ 32) (s : State) (j : Nibble) :
    (State.drawFirst cx cy k s).readV j =
      if j = vf ∧ ∃ r < k, spriteWord (s.memRead (s.indexed r)) cx &&& s.row (spriteTarget cy r) ≠ 0
      then 1 else s.readV j := by
  induction k with
  | zero => simp [State.drawFirst]
  | succ k ih =>
    rw [State.drawFirst, State.readV_drawRow, ih (by omega), State.memRead_drawFirst, State.indexed_drawFirst,
      State.row_drawFirst_other cx cy k s (spriteTarget cy k)
        (fun q hq e => by have := spriteTarget_inj cy (by omega) (by omega) e; omega)]
    by_cases hj : j = vf
    · by_cases hk : spriteWord (s.memRead (s.indexed k)) cx &&& s.row (spriteTarget cy k) ≠ 0
      · rw [if_pos ⟨hj, hk⟩, if_pos ⟨hj, k, by omega, hk⟩]
      · rw [if_neg (fun h => hk h.2)]
        have : (∃ r < k + 1, spriteWord (s.memRead (s.indexed r)) cx &&& s.row (spriteTarget cy r) ≠ 0) ↔
            ∃ r < k, spriteWord (s.memRead (s.indexed r)) cx &&& s.row (spriteTarget cy r) ≠ 0 := by
          constructor
          · rintro ⟨r, hr, h⟩
            exact ⟨r, Nat.lt_of_le_of_ne (by omega) (fun e => hk (e ▸ h)), h⟩
          · rintro ⟨r, hr, h⟩; exact ⟨r, by omega, h⟩
        simp only [this]
    · rw [if_neg (fun h => hj h.1), if_neg (fun h => hj h.1), if_neg (fun h => hj h.1)]

/-! ## The timer update and a step (R185, R90) -/

/-- Everything the timer update can do: no tick, or a tick and a reload. -/
theorem State.timerUpdate_cases (p q : Nat) (s : State) :
    (0 ≤ s.ACC - 3 * (p : Int) ∧ s.timerUpdate p q = s.setAcc (s.ACC - 3 * (p : Int))) ∨
    (s.ACC - 3 * (p : Int) < 0 ∧ s.timerUpdate p q = s.tick.setAcc (s.ACC - 3 * (p : Int) + 50 * (q : Int))) := by
  unfold State.timerUpdate
  by_cases h : s.ACC - 3 * (p : Int) < 0
  · exact .inr ⟨h, if_pos h⟩
  · exact .inl ⟨by omega, if_neg h⟩

/-- The timer update writes nothing but DT, ST and ACC. -/
theorem State.timerUpdate_eq (p q : Nat) (s : State) :
    s.timerUpdate p q =
      { s with DT := (s.timerUpdate p q).DT, ST := (s.timerUpdate p q).ST, ACC := (s.timerUpdate p q).ACC } := by
  rcases State.timerUpdate_cases p q s with ⟨-, h⟩ | ⟨-, h⟩ <;> rw [h] <;> rfl

@[simp] theorem State.timerUpdate_HALT (p q : Nat) (s : State) : (s.timerUpdate p q).HALT = s.HALT := by
  rw [State.timerUpdate_eq]

@[simp] theorem State.timerUpdate_pc (p q : Nat) (s : State) : (s.timerUpdate p q).pc = s.pc := by
  rw [State.timerUpdate_eq]

@[simp] theorem State.timerUpdate_MEM (p q : Nat) (s : State) : (s.timerUpdate p q).MEM = s.MEM := by
  rw [State.timerUpdate_eq]

@[simp] theorem State.timerUpdate_KEYS (p q : Nat) (s : State) : (s.timerUpdate p q).KEYS = s.KEYS := by
  rw [State.timerUpdate_eq]

@[simp] theorem State.memRead2_timerUpdate (p q : Nat) (a : Word) (s : State) :
    (s.timerUpdate p q).memRead2 a = s.memRead2 a := by
  rw [State.timerUpdate_eq]; rfl

/-- Everything a STEP can do, and what it puts on the DIAG output: nothing but the timer update when halted, the decoded
instruction, or the report of an illegal word. -/
theorem cycle_cases (p q : Nat) (s : State) :
    (s.HALT = true ∧ cycle p q s = (.next (s.timerUpdate p q), none)) ∨
    (s.HALT = false ∧ ∃ i, decodeWord s.fetched = .ok i ∧ cycle p q s = (exec i (s.timerUpdate p q).advancePc, none)) ∨
    (s.HALT = false ∧ ∃ e, decodeWord s.fetched = .error e ∧
      cycle p q s = (.next (s.timerUpdate p q).advancePc, some ⟨s.pc, s.fetched⟩)) := by
  cases hh : s.HALT with
  | true => exact .inl ⟨rfl, by simp [cycle, hh]⟩
  | false =>
    have hrun : cycle p q s = execute s.fetched s.pc (s.timerUpdate p q).advancePc := by
      simp [cycle, hh, runOne, State.fetched]
    cases hd : decodeWord s.fetched with
    | ok i => exact .inr (.inl ⟨rfl, i, rfl, by rw [hrun, execute, hd]⟩)
    | error e => exact .inr (.inr ⟨rfl, e, rfl, by rw [hrun, execute, hd]; rfl⟩)

/-- The outcome of a STEP, case by case. -/
theorem stepAt_cases (p q : Nat) (s : State) :
    (s.HALT = true ∧ stepAt p q s = .next (s.timerUpdate p q)) ∨
    (s.HALT = false ∧ ∃ i, decodeWord s.fetched = .ok i ∧ stepAt p q s = exec i (s.timerUpdate p q).advancePc) ∨
    (s.HALT = false ∧ ∃ e, decodeWord s.fetched = .error e ∧ stepAt p q s = .next (s.timerUpdate p q).advancePc) := by
  rcases cycle_cases p q s with ⟨h, hc⟩ | ⟨h, i, hd, hc⟩ | ⟨h, e, hd, hc⟩
  · exact .inl ⟨h, by rw [stepAt, hc]⟩
  · exact .inr (.inl ⟨h, i, hd, by rw [stepAt, hc]⟩)
  · exact .inr (.inr ⟨h, e, hd, by rw [stepAt, hc]⟩)

end Sys2Proof.Machine
end

