-- ==== Sys2Proof/Laws/Frames.lean ====
section
/-! SUPPORT. The frame of each update and of each shared operation, in the terms of Safety.lean: everything outside the
parts named is unchanged. -/

namespace Sys2Proof.Machine

variable {s t u : State} {a b : Part → Prop}

theorem UnchangedBut.refl (s : State) : UnchangedBut a s s := by
  intro p _; cases p <;> exact rfl

theorem UnchangedBut.mono (h : UnchangedBut a s t) (hab : ∀ p, a p → b p) : UnchangedBut b s t :=
  fun p hp => h p (fun h' => hp (hab p h'))

theorem Part.same_trans {p : Part} (h1 : p.same s t) (h2 : p.same t u) : p.same s u := by
  cases p <;> exact h2.trans h1

theorem UnchangedBut.trans (h1 : UnchangedBut a s t) (h2 : UnchangedBut a t u) : UnchangedBut a s u :=
  fun p hp => Part.same_trans (h1 p hp) (h2 p hp)

theorem unchanged_writeV (s : State) (x : Nibble) (v : Byte) : UnchangedBut (fun c => c = .v x) s (s.writeV x v) := by
  intro p hp; cases p <;> simp_all [Part.same, State.readV_writeV]

theorem unchanged_memWrite (s : State) (a : Word) (v : Byte) :
    UnchangedBut (fun c => c = .cell (cellOf a)) s (s.memWrite a v) := by
  intro p hp; cases p <;> simp_all [Part.same, Memory.read_write]

theorem unchanged_setPc (s : State) (a : Word) : UnchangedBut (fun c => c = .pc) s (s.setPc a) := by
  intro p hp; cases p <;> simp_all [Part.same]

theorem unchanged_advancePc (s : State) : UnchangedBut (fun c => c = .pc) s s.advancePc := by
  intro p hp; cases p <;> simp_all [Part.same]

theorem unchanged_skipIf (c : Bool) (s : State) : UnchangedBut (fun c => c = .pc) s (s.skipIf c) := by
  rw [State.skipIf_eq]; exact unchanged_setPc s _

theorem unchanged_setI (s : State) (a : Word) : UnchangedBut (fun c => c = .index) s (s.setI a) := by
  intro p hp; cases p <;> simp_all [Part.same]

theorem unchanged_setDT (s : State) (v : Byte) : UnchangedBut (fun c => c = .dt) s (s.setDT v) := by
  intro p hp; cases p <;> simp_all [Part.same]

theorem unchanged_setST (s : State) (v : Byte) : UnchangedBut (fun c => c = .st) s (s.setST v) := by
  intro p hp; cases p <;> simp_all [Part.same]

theorem unchanged_setKeys (s : State) (m : Word) : UnchangedBut (fun c => c = .keys) s (s.setKeys m) := by
  intro p hp; cases p <;> simp_all [Part.same]

theorem unchanged_setHalt (s : State) (h : Bool) : UnchangedBut (fun c => c = .halt) s (s.setHalt h) := by
  intro p hp; cases p <;> simp_all [Part.same]

theorem unchanged_push (s : State) (v : Word) : UnchangedBut (fun c => c = .sp ∨ c = .stk s.SP) s (s.push v) := by
  intro p hp; cases p <;> simp_all [Part.same, State.stackEntry_push]

theorem unchanged_dropTop (s : State) : UnchangedBut (fun c => c = .sp) s s.dropTop := by
  intro p hp; cases p <;> simp_all [Part.same]

theorem unchanged_setRow (s : State) (r : Fin 32) (w : Row64) : UnchangedBut (fun c => c = .row r) s (s.setRow r w) := by
  intro p hp; cases p <;> simp_all [Part.same, State.row_setRow]

theorem unchanged_clearRows (s : State) : UnchangedBut (fun c => ∃ r, c = .row r) s s.clearRows := by
  intro p hp; cases p <;> simp_all [Part.same]

theorem unchanged_tookDraw (s : State) : UnchangedBut (fun c => c = .draws) s s.tookDraw := by
  intro p hp; cases p <;> simp_all [Part.same]

theorem unchanged_tick (s : State) : UnchangedBut (fun c => c = .dt ∨ c = .st) s s.tick := by
  intro p hp; cases p <;> simp_all [Part.same]

theorem unchanged_setAcc (s : State) (a : Int) : UnchangedBut (fun c => c = .acc) s (s.setAcc a) := by
  intro p hp; cases p <;> simp_all [Part.same]

theorem unchanged_timerUpdate (p q : Nat) (s : State) :
    UnchangedBut (fun c => c = .acc ∨ c = .dt ∨ c = .st) s (s.timerUpdate p q) := by
  intro c hc; rw [State.timerUpdate_eq]; cases c <;> simp_all [Part.same]
  all_goals exact rfl

theorem unchanged_flagOp (f : Byte → Byte → Byte × Byte) (x y : Nibble) (s : State) :
    UnchangedBut (fun c => c = .v x ∨ c = .v vf) s (s.flagOp .operandsFirst f x y) := by
  rw [State.flagOp_operandsFirst]
  exact ((unchanged_writeV s vf _).mono (by tauto)).trans ((unchanged_writeV _ x _).mono (by tauto))

theorem unchanged_storeFirst (k : Nat) (s : State) :
    UnchangedBut (fun c => ∃ j, j < k ∧ c = .cell (cellOf (s.indexed j))) s (State.storeFirst k s) := by
  induction k with
  | zero => exact UnchangedBut.refl s
  | succ k ih =>
    refine (ih.mono ?_).trans ((unchanged_memWrite _ _ _).mono ?_)
    · rintro p ⟨j, hj, hp⟩; exact ⟨j, by omega, hp⟩
    · intro p hp; exact ⟨k, by omega, by rw [hp, State.indexed_storeFirst]⟩

theorem unchanged_loadFirst (k : Nat) (hk : k ≤ 16) (s : State) :
    UnchangedBut (fun c => ∃ j : Nibble, j.toNat < k ∧ c = .v j) s (State.loadFirst k s) := by
  induction k with
  | zero => exact UnchangedBut.refl s
  | succ k ih =>
    refine ((ih (by omega)).mono ?_).trans ((unchanged_writeV _ _ _).mono ?_)
    · rintro p ⟨j, hj, hp⟩; exact ⟨j, by omega, hp⟩
    · intro p hp; exact ⟨BitVec.ofNat 4 k, by simp; omega, hp⟩

theorem unchanged_drawRow (cx cy r : Nat) (s : State) :
    UnchangedBut (fun c => c = .v vf ∨ c = .row (spriteTarget cy r)) s (State.drawRow cx cy r s) := by
  unfold State.drawRow
  dsimp only
  split
  · exact ((unchanged_writeV s vf _).mono (by tauto)).trans ((unchanged_setRow _ _ _).mono (by tauto))
  · exact (unchanged_setRow _ _ _).mono (by tauto)

theorem unchanged_drawFirst (cx cy k : Nat) (s : State) :
    UnchangedBut (fun c => c = .v vf ∨ ∃ r, r < k ∧ c = .row (spriteTarget cy r)) s (State.drawFirst cx cy k s) := by
  induction k with
  | zero => exact UnchangedBut.refl s
  | succ k ih =>
    refine (ih.mono ?_).trans ((unchanged_drawRow cx cy k _).mono ?_)
    · rintro p (h | ⟨r, hr, h⟩)
      · exact .inl h
      · exact .inr ⟨r, by omega, h⟩
    · rintro p (h | h)
      · exact .inl h
      · exact .inr ⟨k, by omega, h⟩

end Sys2Proof.Machine
end

