-- ==== Sys2Proof/Laws/Operands.lean ====
section
/-! SUPPORT. What the operand functions say: the lowest set bit (spec/00_scope.md rule R10) and the columns a sprite byte
lights (spec/44_display.md rule R152 reading a). -/

namespace Sys2Proof.Machine

theorem exists_bit_of_ne_zero {m : Word} (h : m ≠ 0) : ∃ i, i < 16 ∧ m.getLsbD i = true := by
  by_contra hc
  refine h (BitVec.eq_of_getLsbD_eq fun i hi => ?_)
  have : ¬ m.getLsbD i = true := fun hb => hc ⟨i, hi, hb⟩
  simpa using this

/-- `lowest_set(m)` is "the least i in 0..15 with `m[i] = 1`" (R10). -/
theorem lowestSet_spec {m : Word} (h : m ≠ 0) :
    (lowestSet m).toNat < 16 ∧ m.getLsbD (lowestSet m).toNat = true ∧
      ∀ j, j < (lowestSet m).toNat → m.getLsbD j = false := by
  obtain ⟨i, hi, hb⟩ := exists_bit_of_ne_zero h
  cases hf : (List.range 16).find? (fun i => m.getLsbD i) with
  | none =>
    have := List.find?_eq_none.mp hf i (List.mem_range.mpr hi)
    exact absurd hb this
  | some k =>
    have hk : k < 16 := List.mem_range.mp (List.mem_of_find?_eq_some hf)
    have hkb : m.getLsbD k = true := by simpa using List.find?_some hf
    have hl : (lowestSet m).toNat = k := by
      simp only [lowestSet, hf, Option.getD_some, BitVec.toNat_ofNat]; omega
    rw [hl]
    refine ⟨hk, hkb, fun j hj => ?_⟩
    have := (List.find?_range_eq_some.mp hf).2.2 j hj
    simpa using this

/-- A bit of `rotr64(b << 56, cx)`: sprite bit `7 - j` lands on column `(cx + j) mod 64`. -/
theorem spriteWord_bit (b : Byte) {cx c : Nat} (hcx : cx < 64) (hc : c < 64) :
    (spriteWord b cx).getLsbD (63 - c) = true ↔ ∃ j, j < 8 ∧ c = (cx + j) % 64 ∧ b.getLsbD (7 - j) = true := by
  simp only [spriteWord, rotr64, BitVec.getLsbD_or, BitVec.getLsbD_ushiftRight, BitVec.getLsbD_shiftLeft,
    BitVec.getLsbD_setWidth, Bool.or_eq_true, Bool.and_eq_true, decide_eq_true_eq, Bool.not_eq_true']
  constructor
  · rintro (h | h)
    · refine ⟨c - cx, ?_, ?_, ?_⟩
      · have := h.1.2; simp at this; omega
      · have := h.1.1; omega
      · have h1 := h.1.1; have h2 := h.1.2; simp at h2
        rw [show 7 - (c - cx) = cx + (63 - c) - 56 by omega]; exact h.2.2
    · refine ⟨c + 64 - cx, ?_, ?_, ?_⟩
      · have h1 := h.1.2; have h2 := h.2.1.2; simp at h1 h2; omega
      · have h1 := h.1.2; have h2 := h.2.1.2; simp at h1 h2; omega
      · have h1 := h.1.2; have h2 := h.2.1.2; simp at h1 h2
        rw [show 7 - (c + 64 - cx) = 63 - c - (64 - cx) - 56 by omega]; exact h.2.2.2
  · rintro ⟨j, hj, hcj, hb⟩
    by_cases hw : cx + j < 64
    · left
      have : c = cx + j := by omega
      refine ⟨⟨by omega, by simp; omega⟩, by omega, ?_⟩
      rw [show cx + (63 - c) - 56 = 7 - j by omega]; exact hb
    · right
      have : c + 64 = cx + j := by omega
      refine ⟨⟨by omega, by simp; omega⟩, ⟨by omega, by simp; omega⟩, by omega, ?_⟩
      rw [show 63 - c - (64 - cx) - 56 = 7 - j by omega]; exact hb

end Sys2Proof.Machine
end

