-- ==== Sys2Proof/Laws/PerInstr.lean ====
section
/-! SUPPORT. Statements made per instruction. RowMatch: the instruction's encoding matches its own row of the table of
spec/30_encoding.md rule R76, whatever its operands. -/

namespace Sys2Proof.Laws.RowMatch

/-- The instruction's word matches the instruction's row (R74: "(w AND mask) = match"). -/
def Statement (i : Instr) : Prop := i.row.admits (encode i) = true

/-- A word that gives the pattern under the mask matches the row. -/
theorem admits_of_eq {r : OpcodeRow} {w : Word} (h : w &&& r.mask = r.pat) : r.admits w = true := by
  simp [OpcodeRow.admits, h]

theorem cls : Statement .cls := admits_of_eq (by decide)

theorem ret : Statement .ret := admits_of_eq (by decide)

theorem jp (nnn : Addr12) : Statement (.jp nnn) :=
  admits_of_eq (formatNNN_mask ..)

theorem call (nnn : Addr12) : Statement (.call nnn) :=
  admits_of_eq (formatNNN_mask ..)

theorem seImm (x : Nibble) (kk : Byte) : Statement (.seImm x kk) :=
  admits_of_eq (formatXKK_mask ..)

theorem sneImm (x : Nibble) (kk : Byte) : Statement (.sneImm x kk) :=
  admits_of_eq (formatXKK_mask ..)

theorem seReg (x : Nibble) (y : Nibble) : Statement (.seReg x y) :=
  admits_of_eq (formatXYF_mask ..)

theorem ldImm (x : Nibble) (kk : Byte) : Statement (.ldImm x kk) :=
  admits_of_eq (formatXKK_mask ..)

theorem addImm (x : Nibble) (kk : Byte) : Statement (.addImm x kk) :=
  admits_of_eq (formatXKK_mask ..)

theorem ldReg (x : Nibble) (y : Nibble) : Statement (.ldReg x y) :=
  admits_of_eq (formatXYF_mask ..)

theorem orReg (x : Nibble) (y : Nibble) : Statement (.orReg x y) :=
  admits_of_eq (formatXYF_mask ..)

theorem andReg (x : Nibble) (y : Nibble) : Statement (.andReg x y) :=
  admits_of_eq (formatXYF_mask ..)

theorem xorReg (x : Nibble) (y : Nibble) : Statement (.xorReg x y) :=
  admits_of_eq (formatXYF_mask ..)

theorem addReg (x : Nibble) (y : Nibble) : Statement (.addReg x y) :=
  admits_of_eq (formatXYF_mask ..)

theorem sub (x : Nibble) (y : Nibble) : Statement (.sub x y) :=
  admits_of_eq (formatXYF_mask ..)

theorem shr (x : Nibble) (y : Nibble) : Statement (.shr x y) :=
  admits_of_eq (formatXYF_mask ..)

theorem subn (x : Nibble) (y : Nibble) : Statement (.subn x y) :=
  admits_of_eq (formatXYF_mask ..)

theorem shl (x : Nibble) (y : Nibble) : Statement (.shl x y) :=
  admits_of_eq (formatXYF_mask ..)

theorem sneReg (x : Nibble) (y : Nibble) : Statement (.sneReg x y) :=
  admits_of_eq (formatXYF_mask ..)

theorem ldI (nnn : Addr12) : Statement (.ldI nnn) :=
  admits_of_eq (formatNNN_mask ..)

theorem jpV0 (nnn : Addr12) : Statement (.jpV0 nnn) :=
  admits_of_eq (formatNNN_mask ..)

theorem rnd (x : Nibble) (kk : Byte) : Statement (.rnd x kk) :=
  admits_of_eq (formatXKK_mask ..)

theorem drw (x : Nibble) (y : Nibble) (n : Nibble) : Statement (.drw x y n) :=
  admits_of_eq (formatXYN_mask ..)

theorem skp (x : Nibble) : Statement (.skp x) :=
  admits_of_eq (formatXFF_mask ..)

theorem sknp (x : Nibble) : Statement (.sknp x) :=
  admits_of_eq (formatXFF_mask ..)

theorem ldVxDT (x : Nibble) : Statement (.ldVxDT x) :=
  admits_of_eq (formatXFF_mask ..)

theorem ldVxK (x : Nibble) : Statement (.ldVxK x) :=
  admits_of_eq (formatXFF_mask ..)

theorem ldDTVx (x : Nibble) : Statement (.ldDTVx x) :=
  admits_of_eq (formatXFF_mask ..)

theorem ldSTVx (x : Nibble) : Statement (.ldSTVx x) :=
  admits_of_eq (formatXFF_mask ..)

theorem addI (x : Nibble) : Statement (.addI x) :=
  admits_of_eq (formatXFF_mask ..)

theorem ldF (x : Nibble) : Statement (.ldF x) :=
  admits_of_eq (formatXFF_mask ..)

theorem ldB (x : Nibble) : Statement (.ldB x) :=
  admits_of_eq (formatXFF_mask ..)

theorem storeRegs (x : Nibble) : Statement (.storeRegs x) :=
  admits_of_eq (formatXFF_mask ..)

theorem loadRegs (x : Nibble) : Statement (.loadRegs x) :=
  admits_of_eq (formatXFF_mask ..)

end Sys2Proof.Laws.RowMatch
end

