-- ==== Sys2Proof/Tests/Slice0.lean ====
section
/-! SUPPORT. The model's own tests: what the well-formedness checks refuse, every constructor's decoding on a word written
out from spec/30_encoding.md rules R72 and R76, one-step vectors of spec/95_test_vectors.md (each named by its id), and for
every obligation with hypotheses a concrete witness that meets them. Expected values are the spec's, never the model's. -/

namespace Sys2Proof.Tests

open Sys2Proof Sys2Proof.Machine

/-! ## Well-formedness: an ill-formed term for each check

`Instr.wellFormed` has no such term: the operand types have the exact widths of the fields and R75 admits every value. -/

theorem test_row_with_pattern_outside_its_mask_is_refused : (⟨0x00E1, 0xFFF0⟩ : OpcodeRow).wellFormed = false := by decide

theorem test_row_of_the_table_is_admitted : (⟨0xF065, 0xF0FF⟩ : OpcodeRow).wellFormed = true := by decide

/-- `00Ex` would overlap `00E0`. -/
theorem test_overlapping_table_is_refused :
    ¬ OpcodeTable.WellFormed [⟨0x00E0, 0xFFFF⟩, ⟨0x00E0, 0xFFF0⟩] := by decide

theorem test_table_with_an_ill_formed_row_is_refused : ¬ OpcodeTable.WellFormed [⟨0x00E1, 0xFFF0⟩] := by decide

/-- RS-3. -/
theorem test_rom_of_3585_bytes_is_refused : Rom.wellFormed (List.replicate 3585 0) = false :=
  decide_eq_false (by rw [List.length_replicate]; decide)

/-- RS-2. -/
theorem test_rom_of_3584_bytes_is_admitted : Rom.wellFormed (List.replicate 3584 0xFF) = true :=
  decide_eq_true (by rw [List.length_replicate]; decide)

/-! ## Decoding: one word per constructor, and the illegal words of section 2.7 -/

theorem test_decode_control_flow :
    decodeWord 0b0000000011101110#16 = .ok .ret ∧ decodeWord 0b0001001000000100#16 = .ok (.jp 0x204) ∧
    decodeWord 0b0010001000010000#16 = .ok (.call 0x210) ∧ decodeWord 0b1011001100000000#16 = .ok (.jpV0 0x300) := by
  decide

theorem test_decode_skips :
    decodeWord 0b0011000100000010#16 = .ok (.seImm 0x1 0x02) ∧ decodeWord 0b0100001000000111#16 = .ok (.sneImm 0x2 0x07) ∧
    decodeWord 0b0101001101000000#16 = .ok (.seReg 0x3 0x4) ∧ decodeWord 0b1001001101000000#16 = .ok (.sneReg 0x3 0x4) := by
  decide

theorem test_decode_immediates :
    decodeWord 0b0110000000000101#16 = .ok (.ldImm 0x0 0x05) ∧ decodeWord 0b0111000100000011#16 = .ok (.addImm 0x1 0x03) ∧
    decodeWord 0b1100001100001111#16 = .ok (.rnd 0x3 0x0F) := by decide

theorem test_decode_copy_and_logic :
    decodeWord 0b1000000100100000#16 = .ok (.ldReg 0x1 0x2) ∧ decodeWord 0b1000000100100001#16 = .ok (.orReg 0x1 0x2) ∧
    decodeWord 0b1000000100100010#16 = .ok (.andReg 0x1 0x2) ∧ decodeWord 0b1000000100100011#16 = .ok (.xorReg 0x1 0x2) := by
  decide

theorem test_decode_arithmetic :
    decodeWord 0b1000000100100100#16 = .ok (.addReg 0x1 0x2) ∧ decodeWord 0b1000000100100101#16 = .ok (.sub 0x1 0x2) ∧
    decodeWord 0b1000000100100110#16 = .ok (.shr 0x1 0x2) ∧ decodeWord 0b1000000100100111#16 = .ok (.subn 0x1 0x2) ∧
    decodeWord 0b1000000100101110#16 = .ok (.shl 0x1 0x2) := by decide

theorem test_decode_index_and_memory :
    decodeWord 0b1010001100000000#16 = .ok (.ldI 0x300) ∧ decodeWord 0b1111001000011110#16 = .ok (.addI 0x2) ∧
    decodeWord 0b1111001000101001#16 = .ok (.ldF 0x2) ∧ decodeWord 0b1111001000110011#16 = .ok (.ldB 0x2) ∧
    decodeWord 0b1111001001010101#16 = .ok (.storeRegs 0x2) ∧ decodeWord 0b1111001001100101#16 = .ok (.loadRegs 0x2) := by
  decide

theorem test_decode_display :
    decodeWord 0b0000000011100000#16 = .ok .cls ∧ decodeWord 0b1101000100100101#16 = .ok (.drw 0x1 0x2 0x5) := by decide

theorem test_decode_keys_and_timers :
    decodeWord 0b1110000110011110#16 = .ok (.skp 0x1) ∧ decodeWord 0b1110000110100001#16 = .ok (.sknp 0x1) ∧
    decodeWord 0b1111011000000111#16 = .ok (.ldVxDT 0x6) ∧ decodeWord 0b1111010100001010#16 = .ok (.ldVxK 0x5) ∧
    decodeWord 0b1111001100010101#16 = .ok (.ldDTVx 0x3) ∧ decodeWord 0b1111001100011000#16 = .ok (.ldSTVx 0x3) := by decide

/-- IL-1, IL-2. -/
theorem test_illegal_classes_0_5_9 :
    decodeWord 0x0000#16 = .error (.illegalClass0 0x0000) ∧ decodeWord 0x01E0#16 = .error (.illegalClass0 0x01E0) ∧
    decodeWord 0x00EF#16 = .error (.illegalClass0 0x00EF) ∧ decodeWord 0x512F#16 = .error (.illegalClass5 0x512F) ∧
    decodeWord 0x9AB8#16 = .error (.illegalClass9 0x9AB8) := by decide

/-- IL-3 to IL-5. -/
theorem test_illegal_classes_8_E_F :
    decodeWord 0x8008#16 = .error (.illegalClass8 0x8008) ∧ decodeWord 0x800F#16 = .error (.illegalClass8 0x800F) ∧
    decodeWord 0xE19D#16 = .error (.illegalClassE 0xE19D) ∧ decodeWord 0xF030#16 = .error (.illegalClassF 0xF030) ∧
    decodeWord 0xFFFF#16 = .error (.illegalClassF 0xFFFF) := by decide

/-- Big-endian bytes (R51): the byte at the lower address is the high one; a lone byte is refused. -/
theorem test_decode_bytes :
    decode [0x12, 0x04, 0x60] = .ok (.jp 0x204, [0x60]) ∧ decode [0x12] = .error .truncated := by decide

theorem test_encode :
    encode (.drw 0x1 0x2 0x5) = 0xD125#16 ∧ encode (.jpV0 0xFFF) = 0xBFFF#16 ∧ encode (.sknp 0xE) = 0xEEA1#16 ∧
    encodeBytes (.subn 0xA 0xB) = [0x8A, 0xB7] := by decide

theorem test_decodeTableWord :
    decodeTableWord 16 0x2210 = some (.call 0x210) ∧ decodeTableWord 16 0xF055 = some (.storeRegs 0x0) ∧
    decodeTableWord 16 0x8009 = none := by decide

/-! ## One step -/

/-- The reset state with V registers set. -/
def regs (l : List (Nibble × Byte)) : State := l.foldl (fun s p => s.writeV p.1 p.2) State.reset

/-- The state after one STEP of the word `w` placed where `s` fetches; `s` itself if the step answered no next state. -/
def after (w : Nat) (s : State) : State :=
  match step (s.withFetchWord 16 w) with
  | .next t => t
  | _ => s

/-- ST-10: a step of the reset state reports the word 0000 and advances. -/
theorem test_reset_step :
    step State.reset = .next { State.reset with pc := 0x0202, ACC := 44 } ∧
    diagAt 2 1 State.reset = some ⟨0x0200, 0x0000⟩ := ⟨rfl, by decide⟩

/-- IL-5: one DIAG event, nothing else. -/
theorem test_illegal_step :
    diagAt 2 1 (State.reset.withFetchWord 16 0xFFFF) = some ⟨0x0200, 0xFFFF⟩ ∧ (after 0xFFFF State.reset).pc = 0x0202 := by
  decide

/-- IL-6: two illegal words in a row, one event each, in issue order. -/
theorem test_trace_of_illegal_words :
    (Recording.afterAll [.step, .step] ⟨.ready (State.reset.placeWord 0xFFFF), []⟩).trace =
      [⟨0x0200, 0xFFFF⟩, ⟨0x0202, 0x0000⟩] := by decide

/-- ST-2: a step that leaves ACC at exactly 0 does not tick; the next one does and reloads. -/
theorem test_acc_zero_does_not_tick :
    let s := ({ regs [] with ACC := 6 }).setDT 5
    ((after 0x1200 s).ACC = 0 ∧ (after 0x1200 s).DT = 5) ∧
    ((after 0x1200 (after 0x1200 s)).ACC = 44 ∧ (after 0x1200 (after 0x1200 s)).DT = 4) := by decide

/-- ST-8: a tick leaves a zero timer at zero. -/
theorem test_tick_does_not_wrap : (regs []).tick.DT = 0 ∧ ((regs []).setST 1).tick.ST = 0 := by decide

/-- ST-9: a halted step fetches nothing. -/
theorem test_halted_step :
    step (State.reset.setHalt true) = .next { State.reset with HALT := true, ACC := 44 } := rfl

/-- DR-19. -/
theorem test_cls : (after 0x00E0 (State.reset.setRow 31 1)).row 31 = 0 ∧ (after 0x00E0 State.reset).pc = 0x0202 := by decide

/-- CF-3, second step. -/
theorem test_ret :
    let t := after 0x00EE (State.reset.push 0x0206)
    t.pc = 0x0206 ∧ t.SP = 0 ∧ t.stackEntry 0 = 0x0206 := by decide

/-- CF-5: the empty stack. -/
theorem test_ret_on_empty_stack : (after 0x00EE State.reset).SP = 0xF ∧ (after 0x00EE State.reset).pc = 0x0000 := by decide

/-- CF-1, CF-9. -/
theorem test_jp : (after 0x1204 State.reset).pc = 0x0204 ∧ (after 0x1203 State.reset).pc = 0x0203 := by decide

/-- CF-3, first step. -/
theorem test_call :
    let t := after 0x2206 State.reset
    t.pc = 0x0206 ∧ t.SP = 1 ∧ t.stackEntry 0 = 0x0202 := by decide

/-- CF-4: the last slot, SP wraps. -/
theorem test_call_wraps_sp :
    let t := after 0x2220 { State.reset with SP := 0xF }
    t.SP = 0 ∧ t.stackEntry 0xF = 0x0202 := by decide

/-- CF-14, CF-15. -/
theorem test_seImm : (after 0x3100 (regs [])).pc = 0x0204 ∧ (after 0x3100 (regs [(1, 1)])).pc = 0x0202 := by decide

/-- CF-17, CF-18. -/
theorem test_sneImm : (after 0x4207 (regs [(2, 7)])).pc = 0x0202 ∧ (after 0x4208 (regs [(2, 7)])).pc = 0x0204 := by decide

/-- CF-19, CF-20. -/
theorem test_seReg :
    (after 0x5340 (regs [(3, 0x10), (4, 0x10)])).pc = 0x0204 ∧ (after 0x5340 (regs [(3, 0x10), (4, 0x11)])).pc = 0x0202 := by
  decide

/-- CF-22, CF-24. -/
theorem test_sneReg :
    (after 0x9340 (regs [(3, 1), (4, 2)])).pc = 0x0204 ∧ (after 0x9330 (regs [(3, 2)])).pc = 0x0202 := by decide

/-- LA-1, LA-2. -/
theorem test_ldImm : (after 0x6005 (regs [])).readV 0 = 0x05 ∧ (after 0x6FAB (regs [(0xF, 1)])).readV 0xF = 0xAB := by decide

/-- LA-4: the carry is discarded. -/
theorem test_addImm :
    let t := after 0x7101 (regs [(1, 0xFF), (0xF, 9)])
    t.readV 1 = 0x00 ∧ t.readV 0xF = 0x09 := by decide

/-- LA-8. -/
theorem test_ldReg :
    let t := after 0x8120 (regs [(1, 1), (2, 0x2A), (0xF, 1)])
    t.readV 1 = 0x2A ∧ t.readV 2 = 0x2A ∧ t.readV 0xF = 1 := by decide

/-- LA-9. -/
theorem test_orReg :
    let t := after 0x8121 (regs [(1, 0xF0), (2, 0x0F), (0xF, 1)])
    t.readV 1 = 0xFF ∧ t.readV 0xF = 1 := by decide

/-- LA-9. -/
theorem test_andReg :
    let t := after 0x8122 (regs [(1, 0xF0), (2, 0x3C), (0xF, 1)])
    t.readV 1 = 0x30 ∧ t.readV 0xF = 1 := by decide

/-- LA-9. -/
theorem test_xorReg :
    let t := after 0x8123 (regs [(1, 0xF0), (2, 0x3C), (0xF, 1)])
    t.readV 1 = 0xCC ∧ t.readV 0xF = 1 := by decide

/-- LA-15, LA-16: the sums 255 and 256. -/
theorem test_addReg :
    let t := after 0x8124 (regs [(1, 0x80), (2, 0x7F), (0xF, 1)])
    let u := after 0x8124 (regs [(1, 0x80), (2, 0x80)])
    (t.readV 1 = 0xFF ∧ t.readV 0xF = 0) ∧ u.readV 1 = 0x00 ∧ u.readV 0xF = 1 := by decide

/-- LA-53, LA-59: VF as an operand (decision D5). -/
theorem test_addReg_vf :
    let t := after 0x80F4 (regs [(0, 0xC8), (0xF, 0x64)])
    let u := after 0x8F34 (regs [(0xF, 0xFF), (3, 2)])
    (t.readV 0 = 0x2C ∧ t.readV 0xF = 1) ∧ u.readV 0xF = 1 ∧ u.readV 3 = 2 := by decide

/-- LA-18, LA-19: a borrow, and equal operands. -/
theorem test_sub :
    let t := after 0x8125 (regs [(1, 3), (2, 0xA), (0xF, 1)])
    let u := after 0x8125 (regs [(1, 7), (2, 7), (0xF, 1)])
    (t.readV 1 = 0xF9 ∧ t.readV 0xF = 0) ∧ u.readV 1 = 0 ∧ u.readV 0xF = 0 := by decide

/-- LA-50, LA-54. -/
theorem test_sub_vf :
    let t := after 0x80F5 (regs [(0, 0xA), (0xF, 3)])
    (after 0x8F35 (regs [(0xF, 5), (3, 3)])).readV 0xF = 2 ∧ t.readV 0 = 7 ∧ t.readV 0xF = 1 := by decide

/-- LA-24, LA-28: Vy is ignored. -/
theorem test_shr :
    let t := after 0x8126 (regs [(1, 0xB3)])
    let u := after 0x8126 (regs [(1, 0x80), (2, 0xFF), (0xF, 1)])
    (t.readV 1 = 0x59 ∧ t.readV 0xF = 1) ∧ u.readV 1 = 0x40 ∧ u.readV 0xF = 0 ∧ u.readV 2 = 0xFF := by decide

/-- LA-51. -/
theorem test_shr_vf : (after 0x8F06 (regs [(0xF, 6)])).readV 0xF = 3 := by decide

/-- LA-29, LA-31. -/
theorem test_subn :
    let t := after 0x8127 (regs [(1, 3), (2, 0xA)])
    let u := after 0x8127 (regs [(1, 7), (2, 7), (0xF, 1)])
    (t.readV 1 = 7 ∧ t.readV 0xF = 1 ∧ t.readV 2 = 0xA) ∧ u.readV 1 = 0 ∧ u.readV 0xF = 0 := by decide

/-- LA-55, LA-58. -/
theorem test_subn_vf :
    let t := after 0x80F7 (regs [(0, 3), (0xF, 0xA)])
    (after 0x8F37 (regs [(0xF, 5), (3, 3)])).readV 0xF = 0xFE ∧ t.readV 0 = 7 ∧ t.readV 0xF = 1 := by decide

/-- LA-34, LA-38. -/
theorem test_shl :
    let t := after 0x812E (regs [(1, 0xB3)])
    let u := after 0x812E (regs [(1, 0), (2, 0xFF), (0xF, 1)])
    (t.readV 1 = 0x66 ∧ t.readV 0xF = 1) ∧ u.readV 1 = 0 ∧ u.readV 0xF = 0 := by decide

/-- LA-52. -/
theorem test_shl_vf : (after 0x8F0E (regs [(0xF, 0x81)])).readV 0xF = 2 := by decide

/-- The `sequential` column of the table of 92_eei_decisions.md, "D5 and D6". -/
theorem test_sequential_order :
    ((regs [(0xF, 5), (3, 3)]).flagOp .sequential aluSub 0xF 3).readV 0xF = 254 ∧
    ((regs [(0xF, 6)]).flagOp .sequential aluShr 0xF 0).readV 0xF = 0 ∧
    ((regs [(0xF, 0x81)]).flagOp .sequential aluShl 0xF 0).readV 0xF = 2 ∧
    ((regs [(0, 200), (0xF, 100)]).flagOp .sequential aluAdd 0 0xF).readV 0 = 201 ∧
    ((regs [(0, 10), (0xF, 3)]).flagOp .sequential aluSub 0 0xF).readV 0 = 9 ∧
    ((regs [(0xF, 0x90)]).flagOp .sequential aluAdd 0xF 0xF).readV 0xF = 2 := by decide

/-- IM-1, IM-2. -/
theorem test_ldI : (after 0xA300 State.reset).I = 0x0300 ∧ (after 0xAFFF State.reset).I = 0x0FFF := by decide

/-- CF-7: the target is not masked; CF-8 is its largest value. -/
theorem test_jpV0 : (after 0xBFFF (regs [(0, 3)])).pc = 0x1002 ∧ (after 0xBFFF (regs [(0, 0xFF)])).pc = 0x10FE := by decide

/-- LA-61, and the first draw of LA-60 for every draw: the low nibble is 0; and a draw is taken. -/
theorem test_rnd :
    (after 0xC1F0 State.reset).readV 1 = Config.randomByte 0 &&& 0xF0 ∧ (after 0xC1F0 State.reset).draws = 1 := ⟨rfl, rfl⟩

/-- DR-3, DR-4: wrap within the row; coordinates reduced. -/
theorem test_drw_wraps :
    let s := ((regs [(0, 0x7C), (1, 0x23)]).setI 0x0300).memWrite 0x0300 0xA5
    let t := after 0xD011 s
    t.row 3 = 0x500000000000000A ∧ t.readV 0xF = 0 ∧ t.I = 0x0300 := by decide

/-- DR-6, a collision on one pixel of two; DR-10, the column from the old VF (decision D6), and the `sequential` value of the
same table of 92_eei_decisions.md, column 0. -/
theorem test_drw_collides_and_reads_old_vf :
    let s := (((regs [(0, 3), (1, 5)]).setI 0x0300).memWrite 0x0300 0x90).setRow 5 0xF000000000000000
    let u := ((regs [(0xF, 0xA), (1, 2)]).setI 0x0300).memWrite 0x0300 0xC0
    ((after 0xD011 s).row 5 = 0xE200000000000000 ∧ (after 0xD011 s).readV 0xF = 1) ∧
    (after 0xDF11 u).row 2 = 0x0030000000000000 ∧ (u.drawSprite .sequential 0xF 1 1).row 2 = 0xC000000000000000 := by decide

/-- DR-20, three of its elements and two of the others. -/
theorem test_frame :
    let s := (State.reset.setRow 0 0x8000000000000001).setRow 31 0x4000000000000000
    s.pixel 0 0 = true ∧ s.pixel 0 63 = true ∧ s.pixel 31 1 = true ∧ s.pixel 0 1 = false ∧ s.pixel 31 0 = false := by decide

/-- KT-1, KT-2. -/
theorem test_skp :
    (after 0xE19E ((regs [(1, 5)]).updateKeys 0x0020)).pc = 0x0204 ∧
    (after 0xE19E ((regs [(1, 4)]).updateKeys 0x0020)).pc = 0x0202 := by decide

/-- KT-6, KT-8: the key number is masked. -/
theorem test_sknp :
    (after 0xE1A1 ((regs [(1, 0x1A)]).updateKeys 0x0400)).pc = 0x0202 ∧ (after 0xE0A1 State.reset).pc = 0x0204 := by decide

/-- ST-5, step 9: the read in a ticking step sees the decremented timer. -/
theorem test_ldVxDT :
    let s := ({ regs [] with ACC := 2 }).setDT 5
    (after 0xF407 s).readV 4 = 4 ∧ (after 0xF407 (State.reset.setDT 5)).readV 4 = 5 := by decide

/-- KT-10: a held key completes at once. -/
theorem test_ldVxK :
    let t := after 0xF50A (State.reset.updateKeys 0x0008)
    t.readV 5 = 3 ∧ t.HALT = false ∧ t.pc = 0x0202 := by decide

/-- KT-12: halt, an empty mask, then the lowest of two keys. -/
theorem test_ldVxK_halts_and_resumes :
    let t := after 0xF50A State.reset
    let u := (t.updateKeys 0).updateKeys 0x0240
    (t.HALT = true ∧ t.pc = 0x0202 ∧ (t.updateKeys 0).HALT = true) ∧
    u.readV 5 = 6 ∧ u.HALT = false ∧ u.KEYS = 0x0240 ∧ u.ACC = 44 := by decide

/-- ST-6, step 9: the write in a ticking step is not decremented. -/
theorem test_ldDTVx : (after 0xF315 { regs [(3, 5)] with ACC := 2 }).DT = 5 := by decide

/-- ST-7, step 2. -/
theorem test_ldSTVx : (after 0xF318 (regs [(3, 2)])).ST = 2 ∧ (after 0xF318 (regs [(3, 2)])).soundOn = true := by decide

/-- IM-3, IM-6: no flag; 16-bit wrap. -/
theorem test_addI :
    let t := after 0xF21E ((regs [(2, 0x10), (0xF, 1)]).setI 0x0300)
    (t.I = 0x0310 ∧ t.readV 0xF = 1) ∧ (after 0xF01E ((regs [(0, 2)]).setI 0xFFFF)).I = 0x0001 := by decide

/-- IM-7, IM-8. -/
theorem test_ldF :
    (after 0xF029 (regs [(0, 7)])).I = 0x0023 ∧ (after 0xF029 (regs [(0, 0xFF)])).I = 0x04FB := by decide

/-- IM-9, IM-11: the digits, and the wrap into the font. -/
theorem test_ldB :
    let t := after 0xF033 ((regs [(0, 0xEA)]).setI 0x0300)
    let u := after 0xF033 ((regs [(0, 0xEA)]).setI 0x0FFE)
    (t.memRead 0x300 = 2 ∧ t.memRead 0x301 = 3 ∧ t.memRead 0x302 = 4 ∧ t.I = 0x0300) ∧
    u.memRead 0xFFE = 2 ∧ u.memRead 0xFFF = 3 ∧ u.memRead 0x000 = 4 := by decide

/-- IM-12: V3 is not stored. -/
theorem test_storeRegs :
    let t := after 0xF255 ((regs [(0, 1), (1, 2), (2, 3), (3, 4)]).setI 0x0300)
    t.memRead 0x300 = 1 ∧ t.memRead 0x301 = 2 ∧ t.memRead 0x302 = 3 ∧ t.memRead 0x303 = 0 ∧ t.I = 0x0303 := by decide

/-- IM-18: a store on the next instruction's first byte is what the next step fetches. -/
theorem test_store_is_fetched :
    let t := after 0xF055 { (regs [(0, 0x12)]).setI 0x0204 with pc := 0x0202 }
    t.memRead 0x204 = 0x12 ∧ t.I = 0x0205 ∧ decodeWord t.fetched = .ok (.jp 0x200) := by decide

/-- IM-15: V3 is not loaded. -/
theorem test_loadRegs :
    let s := (regs [(3, 0x77)]).setI 0x0300
    let t := after 0xF265 ((((s.memWrite 0x300 2).memWrite 0x301 3).memWrite 0x302 4).memWrite 0x303 5)
    t.readV 0 = 2 ∧ t.readV 1 = 3 ∧ t.readV 2 = 4 ∧ t.readV 3 = 0x77 ∧ t.I = 0x0303 := by decide

/-- IM-17, the ends: the addresses wrap into the font. -/
theorem test_loadRegs_wraps :
    let t := after 0xFF65 ((State.reset.setI 0x0FF8).memWrite 0x0FF8 0xA0)
    t.readV 0 = 0xA0 ∧ t.readV 8 = 0xF0 ∧ t.readV 0xF = 0x20 ∧ t.I = 0x1008 := by decide

/-- CF-11: the fetch's second byte wraps to cell 0. -/
theorem test_fetch_wraps :
    ((State.reset.setPc 0x0FFF).memWrite 0x0FFF 0x60).fetched = 0x60F0 := by decide

/-- RS-1 and RS-4, what a short ROM leaves. -/
theorem test_init_short_rom :
    let s := State.initialise font 1 [0x61] 0
    s.memRead 0x200 = 0x61 ∧ s.memRead 0x201 = 0 ∧ s.memRead 0x000 = 0xF0 ∧ s.memRead 0x04F = 0x80 ∧ s.memRead 0x050 = 0 := by
  decide +kernel

/-- RS-3. -/
theorem test_init_oversized :
    transact (.init (List.replicate 3585 0)) Block.powerOn = .refused .oversizedRom := by
  rw [transact, Block.init, test_rom_of_3585_bytes_is_refused]; rfl

/-- D20: nothing is admitted before INIT. -/
theorem test_step_before_init : transact .step Block.powerOn = .refused .notInitialised := rfl

/-- The host's fetch question: the placed word is what the next step fetches and runs, even from a Halted state. -/
theorem test_withFetchWord :
    ((State.reset.setHalt true).withFetchWord 16 0xA2F0).fetched = 0xA2F0 ∧
    (after 0xA2F0 (State.reset.setHalt true)).I = 0x02F0 := by decide

/-! ## Witnesses: concrete values that meet an obligation's hypotheses together -/

theorem witness_InitGivesTheResetTable :
    font.length = 80 ∧ (List.replicate 3584 (0xFF : Byte)).length ≤ 3584 ∧ 0 < stepMsDen ∧ 79 < font.length ∧
    3583 < (List.replicate 3584 (0xFF : Byte)).length ∧ 0x200 + (List.replicate 3583 (0xFF : Byte)).length ≤ 0xFFF := by
  simp only [List.length_replicate]; decide

theorem witness_InitRefusesOnlyAnOversizedRom :
    3584 < (List.replicate 3585 (0 : Byte)).length ∧ (List.replicate 3584 (0 : Byte)).length ≤ 3584 := by
  simp only [List.length_replicate]; decide

theorem witness_NothingRunsBeforeAValidInit :
    ∀ rom, Transaction.init rom ∈ [Transaction.step, .init (List.replicate 3585 0), .frame] → 3584 < rom.length := by
  intro rom h
  simp only [List.mem_cons, reduceCtorEq, Transaction.init.injEq, List.not_mem_nil, or_false, false_or] at h
  rw [h, List.length_replicate]; decide

theorem witness_DecodeInvertsEncode : (Instr.drw 0xF 0xF 0xF).wellFormed = true := by decide

theorem witness_EncodeInvertsDecode : decodeWord 0xFF65#16 = .ok (.loadRegs 0xF) := by decide

theorem witness_DecodeAgreesWithTheTable :
    (decodeWord 0x8FFE#16 = .ok (.shl 0xF 0xF) ∧ (⟨0x800E, 0xF00F⟩ : OpcodeRow) ∈ opcodeRows ∧
      (⟨0x800E, 0xF00F⟩ : OpcodeRow).admits 0x8FFE = true) ∧
    decodeWord 0x8FFD#16 = .error (.illegalClass8 0x8FFD) := by decide

/-- One word in each clause of R78's table, at the edge of its range. -/
theorem witness_IllegalWordsAreThoseOfTheTable :
    (fieldOp 0x00EF = 0x0 ∧ fieldNNN 0x00EF ≠ 0x0E0 ∧ fieldNNN 0x00EF ≠ 0x0EE) ∧
    (fieldOp 0x5001 = 0x5 ∧ fieldN 0x5001 ≠ 0) ∧
    (fieldOp 0x8008 = 0x8 ∧ fieldN 0x8008 = 0x8) ∧ (fieldOp 0x9001 = 0x9 ∧ fieldN 0x9001 ≠ 0) ∧
    (fieldOp 0xE19D = 0xE ∧ fieldKK 0xE19D = 0x9D) ∧ (fieldOp 0xF066 = 0xF ∧ fieldKK 0xF066 = 0x66) := by decide

theorem witness_StepRunsTheDecodedInstruction :
    let s := State.reset.withFetchWord 16 0x6005
    s.HALT = false ∧ decode [s.memRead s.pc, s.memRead (s.pc + 1)] = .ok (.ldImm 0 5, []) := by decide

theorem witness_HaltedStepOnlyUpdatesTimers : (State.reset.setHalt true).HALT = true := by decide

theorem witness_IllegalWordIsReportedAndSkipped :
    State.reset.HALT = false ∧ ∀ i, decodeWord State.reset.fetched ≠ .ok i := by
  have h : decodeWord State.reset.fetched = .error (.illegalClass0 0) := by decide
  exact ⟨by decide, fun i hi => by rw [h] at hi; cases hi⟩

theorem witness_OnlyFx0AHaltsAndNoStepResumes :
    (∃ t, step (State.reset.withFetchWord 16 0xF50A) = .next t ∧ t.HALT = true) ∧
    (∃ t, step (State.reset.setHalt true) = .next t) := ⟨⟨after 0xF50A State.reset, rfl, by decide⟩, ⟨_, rfl⟩⟩

theorem witness_TimerUpdatePrecedesTheInstruction :
    let s := fun w => ({ State.reset with ACC := 2, DT := 5 }).withFetchWord 16 w
    (s 0xF407).HALT = false ∧ decodeWord (s 0xF407).fetched = .ok (.ldVxDT 4) ∧
    decodeWord (s 0xF315).fetched = .ok (.ldDTVx 3) ∧ decodeWord (s 0xF318).fetched = .ok (.ldSTVx 3) := by decide

theorem witness_IndexHighBitsAreUnobservable :
    SameButIndexHigh (State.reset.setI 0x0FFF) (State.reset.setI 0x1FFF) ∧
    ∃ t, step (State.reset.setI 0x0FFF) = .next t := ⟨⟨rfl, by decide⟩, ⟨_, rfl⟩⟩

/-- ACC = 5/3 ms less 2 ms is negative; ACC = 2 ms less 2 ms is exactly 0 (conflict C6). -/
theorem witness_TimerUpdateIsExactInMilliseconds :
    (State.accMs 1 { State.reset with ACC := 5 } - ((2 : Nat) : Rat) / ((1 : Nat) : Rat) < 0) ∧
    (0 ≤ State.accMs 1 { State.reset with ACC := 6 } - ((2 : Nat) : Rat) / ((1 : Nat) : Rat)) ∧ 0 < 1 := by
  norm_num [State.accMs]

theorem witness_TickScheduleIsFixedByTheStepCount : State.reset.ACC = 50 ∧ 1 ≤ 1 := by decide

/-- Both ends of the range, and the halted state a run reaches by `Fx0A` (KT-11), whose ACC is 44. -/
theorem witness_HaltedTimersFollowTheSchedule :
    (({ State.reset with ACC := 0 }).setHalt true).accInRange 1 ∧ (State.reset.setHalt true).accInRange 1 ∧
    (after 0xFF0A State.reset).HALT = true ∧ (after 0xFF0A State.reset).accInRange 1 ∧ (after 0xFF0A State.reset).ACC = 44 :=
  ⟨by constructor <;> decide, by constructor <;> decide, by decide, by constructor <;> decide, by decide⟩

/-- ST-1 and ST-2: from 3 ACC = 44 after step 1, ticks by steps 8, 9, 25, 26; from 0 the next step ticks, from 6 it does not. -/
theorem test_ticksFrom :
    ticksFrom 44 7 = 0 ∧ ticksFrom 44 8 = 1 ∧ ticksFrom 44 24 = 2 ∧ ticksFrom 44 25 = 3 ∧ ticksFrom 0 1 = 1 ∧
    ticksFrom 6 1 = 0 ∧ ticksFrom 50 0 = 0 := by decide

/-- The schedule itself, against ST-1 and ST-3: ticks among the first k steps. -/
theorem test_ticksIn :
    ticksIn 8 = 0 ∧ ticksIn 9 = 1 ∧ ticksIn 17 = 2 ∧ ticksIn 25 = 2 ∧ ticksIn 26 = 3 ∧ ticksIn 60 = 7 ∧ ticksIn 500 = 59 ∧
    ticksIn 501 = 60 := by decide

theorem witness_EnvelopeRepeatsEvery25Steps :
    (0 ≤ ({ State.reset with ACC := 0 }).ACC ∧ ({ State.reset with ACC := 0 }).ACC < 50) ∧
    (0 ≤ ({ State.reset with ACC := 49 }).ACC ∧ ({ State.reset with ACC := 49 }).ACC < 50) := by decide

theorem witness_SixteenCallsUnwindAndTheNextOverwrites :
    (List.replicate 16 ((0x0202 : Word), (0x202 : Addr12))).length ≤ 16 ∧
    (List.replicate 15 ((0x0202 : Word), (0x202 : Addr12))).length = 15 := by decide

/-- CF-4, the first two calls as a chain: STK[0] = 0202, STK[1] = 0204. -/
theorem witness_Calls :
    ∃ t, Calls [(0x0202, 0x202), (0x0204, 0x204)] State.reset t ∧ t.stackEntry 0 = 0x0202 ∧ t.stackEntry 1 = 0x0204 :=
  ⟨_, ⟨_, rfl, _, rfl, rfl⟩, by decide, by decide⟩

theorem witness_CompareSkipsAdvancePc :
    decodeWord (State.reset.withFetchWord 16 0x5340).fetched = .ok (.seReg 3 4) ∧
    Instr.seReg 3 4 ∈ [Instr.seImm 3 0, .sneImm 3 0, .seReg 3 4, .sneReg 3 4] := by decide

/-- Both sides of the equivalence: an event, and none when halted or when the word is legal. -/
theorem witness_DiagEventsAreWriteOnly :
    diagAt 2 1 State.reset = some ⟨0x0200, 0x0000⟩ ∧ diagAt 2 1 (State.reset.setHalt true) = none ∧
    diagAt 2 1 (State.reset.withFetchWord 16 0x00E0) = none := by decide

/-- The flag clause's `x ≠ 0xF`, at its edge, for AddSetsCarry, SubtractsSetStrictlyGreater and ShiftsSetTheBitShiftedOut. -/
theorem witness_flag_clauses : (0xE : Nibble) ≠ 0xF := by decide

theorem witness_FlagsAreZeroOrOne :
    ((0xE : Nibble) ≠ 0xF ∧ Instr.sub 0xE 0xF ∈
      [Instr.addReg 0xE 0xF, .sub 0xE 0xF, .shr 0xE 0xF, .subn 0xE 0xF, .shl 0xE 0xF]) ∧
    (∃ t, exec (.sub 0xE 0xF) State.reset = .next t) ∧ ∃ t, exec (.drw 0xF 0xF 0) State.reset = .next t :=
  ⟨by decide, ⟨_, rfl⟩, ⟨_, rfl⟩⟩

theorem witness_AliasOrdersAgreeOffVF :
    (0xE : Nibble) ≠ 0xF ∧ (aluShr = aluShr ∨ aluShr = aluShl ∨ (0xF : Nibble) ≠ 0xF) ∧
    (aluAdd = aluShr ∨ aluAdd = aluShl ∨ (0xE : Nibble) ≠ 0xF) :=
  ⟨by decide, .inl rfl, .inr (.inr (by decide))⟩

/-- The register bound of StoreRegistersToMemory and LoadRegistersFromMemory, at its edge and at the last register. -/
theorem witness_register_ranges : (0x2 : Nibble) ≤ 0x2 ∧ (0xF : Nibble) ≤ 0xF ∧ (0x0 : Nibble) ≤ 0x0 := by decide

theorem witness_StoredRegistersAreRestored :
    let t := after 0xFF55 (State.reset.setI 0x0FF8)
    let u := (t.writeV 0 0x55).setI 0x0FF8
    u.MEM = t.MEM ∧ u.I = (State.reset.setI 0x0FF8).I := ⟨rfl, rfl⟩

/-- A state whose sprite at I is the one lit byte 0x80, drawn at column 0, row 0, with that pixel lit or not. -/
def drawState (w : Row64) : State := ((State.reset.setI 0x0300).memWrite 0x0300 0x80).setRow 0 w

theorem witness_DrawTogglesSpritePixels_collision :
    (drawState 0x8000000000000000).pixel 0 0 = true ∧
    (drawState 0x8000000000000000).spriteLit (((drawState 0x8000000000000000).readV 0).toNat % 64)
      (((drawState 0x8000000000000000).readV 1).toNat % 32) (0x1 : Nibble).toNat 0 0 :=
  ⟨by decide, 0, 0, by decide, by decide, by decide, by decide, by decide⟩

theorem pixel_of_blank (r : Fin 32) (c : Nat) : (drawState 0).pixel r c = false := by
  have h : ∀ r, (drawState 0).row r = 0 := by decide
  rw [State.pixel, h]; simp

theorem witness_DrawTogglesSpritePixels_no_collision :
    ∀ (r : Fin 32) (c : Nat), c < 64 → (drawState 0).pixel r c = true → ¬ (drawState 0).spriteLit 0 0 1 r c := by
  intro r c _ h
  rw [pixel_of_blank] at h
  cases h

theorem witness_DrawTwiceRestoresTheDisplay :
    (0xE : Nibble) ≠ 0xF ∧ (0x0 : Nibble) ≠ 0xF ∧ ((drawState 0).drawSprite aluAliasOrder 0xE 0x0 1).readV 0xF = 0 := by decide

theorem witness_FrameIsRowMajorAndPure : 63 < 64 ∧ 64 * (31 : Fin 32).val + 63 = 2047 := by decide

theorem witness_WaitForKeyReadsOrHalts : (State.reset.setKeys 0x8000).KEYS ≠ 0 ∧ State.reset.KEYS = 0 := by decide

theorem witness_KeysReplacesTheLatchAndResolves :
    (State.reset.HALT = false ∨ (0x8000 : Word) = 0) ∧ ((State.reset.setHalt true).HALT = false ∨ (0 : Word) = 0) ∧
    (State.reset.setHalt true).HALT = true ∧ (0x8000 : Word) ≠ 0 := by decide

theorem witness_WaitForKeyIsResolvedIntoVx :
    let s := State.reset.withFetchWord 16 0xF50A
    s.HALT = false ∧ s.KEYS = 0 ∧ decodeWord s.fetched = .ok (.ldVxK 5) ∧ (0x8000 : Word) ≠ 0 := by decide

theorem witness_MemoryReadsTheLastWrite :
    (0x1000 : Word).toNat % 4096 = (0x0000 : Word).toNat % 4096 ∧
    (0x0FFF : Word).toNat % 4096 ≠ (0x1000 : Word).toNat % 4096 := by decide

theorem witness_CanonicalMemoriesAreExtensional :
    Memory.wf [(0x000, 0x01), (0xFFF, 0x01)] ∧
    ∀ a, a < 4096 → Memory.read [(0x000, 0x01), (0xFFF, 0x01)] a = Memory.read [(0x000, 0x01), (0xFFF, 0x01)] a :=
  ⟨by decide, fun _ _ => rfl⟩

theorem witness_InstructionsWriteOnlyTheirParts :
    exec (.call 0x300) State.reset = .next ((State.reset.push 0x0200).setPc 0x0300) := rfl

/-- A Halted state, at the edge of STEP_MS = 50/3 ms: ACC goes from 0 ms to 0 ms through a tick. -/
theorem witness_StepKeepsTheInvariant :
    let s := { (State.reset.withFetchWord 16 0xF50A).advancePc.setHalt true with ACC := 0 }
    3 * 50 ≤ 50 * 3 ∧ s.Sound 3 ∧ s.HALT = true ∧ ∃ t, stepAt 50 3 s = .next t := by
  refine ⟨by decide, ⟨by decide, fun _ => ⟨by decide, 5, by decide⟩, by constructor <;> decide⟩, by decide, ⟨_, rfl⟩⟩

theorem witness_EveryTransactionKeepsTheInvariant :
    (Block.ready State.reset).Inv ∧ ∃ b, transact (.keys 0x8000) (.ready State.reset) = .next b :=
  ⟨⟨by decide, fun h => absurd h (by decide), by constructor <;> decide⟩, ⟨_, rfl⟩⟩

end Sys2Proof.Tests
end

section
/-! PROOFS: the invariant of a run. `State.Sound` (R173, R185, log entry 19) is kept by each transaction of R5, so it holds
after every sequence of them. Of the 34 instructions only `Fx0A` can halt, and none writes ACC: `exec_cases` says so once. -/

namespace Sys2Proof.Machine

/-! ## What the shared operations leave alone of HALT, ACC and MEM -/

@[simp] theorem State.skipIf_HALT (c : Bool) (s : State) : (s.skipIf c).HALT = s.HALT := by rw [State.skipIf_eq]; rfl
@[simp] theorem State.skipIf_ACC (c : Bool) (s : State) : (s.skipIf c).ACC = s.ACC := by rw [State.skipIf_eq]; rfl
@[simp] theorem State.skipIf_MEM (c : Bool) (s : State) : (s.skipIf c).MEM = s.MEM := by rw [State.skipIf_eq]; rfl

@[simp] theorem State.storeFirst_HALT (k : Nat) (s : State) : (State.storeFirst k s).HALT = s.HALT := by
  rw [State.storeFirst_eq]

@[simp] theorem State.storeFirst_ACC (k : Nat) (s : State) : (State.storeFirst k s).ACC = s.ACC := by
  rw [State.storeFirst_eq]

@[simp] theorem State.loadFirst_HALT (k : Nat) (s : State) : (State.loadFirst k s).HALT = s.HALT := by
  rw [State.loadFirst_eq]

@[simp] theorem State.loadFirst_ACC (k : Nat) (s : State) : (State.loadFirst k s).ACC = s.ACC := by
  rw [State.loadFirst_eq]

/-- What every instruction but a halting `Fx0A` keeps of the parts the invariant speaks of. -/
structure State.KeepsCore (s t : State) : Prop where
  halt : t.HALT = s.HALT
  acc : t.ACC = s.ACC
  memory : Memory.wf s.MEM → Memory.wf t.MEM

namespace State.KeepsCore

/-- An operation that writes none of the three parts keeps them. -/
theorem of_eq {s t : State} (halt : t.HALT = s.HALT) (acc : t.ACC = s.ACC) (memory : t.MEM = s.MEM) : s.KeepsCore t :=
  ⟨halt, acc, fun h => memory ▸ h⟩

theorem skipIf (c : Bool) (s : State) : s.KeepsCore (s.skipIf c) := of_eq (by simp) (by simp) (by simp)

theorem flagOp (o : Config.AliasOrder) (f : Byte → Byte → Byte × Byte) (x y : Nibble) (s : State) :
    s.KeepsCore (s.flagOp o f x y) := by
  rw [State.flagOp_eq]; exact of_eq rfl rfl rfl

theorem drawSprite (o : Config.AliasOrder) (x y n : Nibble) (s : State) : s.KeepsCore (s.drawSprite o x y n) := by
  rw [State.drawSprite, State.drawFirst_eq]; exact of_eq rfl rfl rfl

theorem storeFirst (k : Nat) (s : State) : s.KeepsCore (State.storeFirst k s) :=
  ⟨by simp, by simp, State.storeFirst_wf k⟩

theorem memWrite (s : State) (a : Word) (v : Byte) : s.KeepsCore (s.memWrite a v) :=
  ⟨rfl, rfl, fun h => State.memWrite_wf h a v⟩

theorem trans {s t u : State} (h : s.KeepsCore t) (h' : t.KeepsCore u) : s.KeepsCore u :=
  ⟨h'.halt.trans h.halt, h'.acc.trans h.acc, fun hm => h'.memory (h.memory hm)⟩

end State.KeepsCore

/-- Everything an instruction can do to HALT, ACC and the canonical form of MEM: it keeps them, or it is an `Fx0A` that
finds no key down and halts (R170). -/
theorem exec_cases {i : Instr} {s t : State} (h : exec i s = .next t) :
    s.KeepsCore t ∨ ∃ x, i = .ldVxK x ∧ s.KEYS = 0 ∧ t = s.setHalt true := by
  cases i with
  | ldVxK x =>
    obtain rfl := Host.Outcome.next.inj h
    by_cases hk : s.KEYS = 0
    · exact .inr ⟨x, rfl, hk, if_neg (not_not.mpr hk)⟩
    · rw [if_pos hk]; exact .inl (.of_eq rfl rfl rfl)
  | seImm | sneImm | seReg | sneReg | skp | sknp =>
    obtain rfl := Host.Outcome.next.inj h
    exact .inl (.skipIf _ s)
  | addReg | sub | shr | subn | shl =>
    obtain rfl := Host.Outcome.next.inj h
    exact .inl (.flagOp _ _ _ _ s)
  | drw x y n =>
    obtain rfl := Host.Outcome.next.inj h
    exact .inl (.drawSprite _ x y n s)
  | ldB x =>
    obtain rfl := Host.Outcome.next.inj h
    exact .inl (((State.KeepsCore.memWrite ..).trans (.memWrite ..)).trans (.memWrite ..))
  | storeRegs x =>
    obtain rfl := Host.Outcome.next.inj h
    exact .inl ((State.KeepsCore.storeFirst _ s).trans (.of_eq rfl rfl rfl))
  | loadRegs x =>
    obtain rfl := Host.Outcome.next.inj h
    exact .inl (.of_eq (State.loadFirst_HALT _ s) (State.loadFirst_ACC _ s) (State.loadFirst_MEM _ s))
  | cls | ret | jp | call | jpV0 | ldImm | addImm | ldReg | orReg | andReg | xorReg | ldI | rnd | ldVxDT | ldDTVx | ldSTVx
  | addI | ldF =>
    obtain rfl := Host.Outcome.next.inj h
    exact .inl (.of_eq rfl rfl rfl)

/-! ## STEP (R90) -/

/-- A Running state waits on nothing. -/
theorem State.waitsOnKey_of_running {s : State} (h : s.HALT = false) : s.waitsOnKey := fun hh => by simp [h] at hh

/-- The timer update keeps ACC in its range when STEP_MS is at most the reload (R185). -/
theorem State.accInRange_timerUpdate {p q : Nat} (hpq : 3 * p ≤ 50 * q) {s : State} (h : s.accInRange q) :
    (s.timerUpdate p q).accInRange q := by
  obtain ⟨hlo, hhi⟩ := h
  rcases State.timerUpdate_cases p q s with ⟨hacc, ht⟩ | ⟨hacc, ht⟩ <;> rw [ht] <;>
    constructor <;> simp only [State.setAcc_ACC] <;> omega

theorem State.waitsOnKey_timerUpdate {p q : Nat} {s : State} (h : s.waitsOnKey) : (s.timerUpdate p q).waitsOnKey := by
  simpa [State.waitsOnKey] using h

theorem State.Sound.timerUpdate {p q : Nat} (hpq : 3 * p ≤ 50 * q) {s : State} (h : s.Sound q) :
    (s.timerUpdate p q).Sound q where
  memory := by simpa using h.memory
  wait := State.waitsOnKey_timerUpdate h.wait
  envelope := State.accInRange_timerUpdate hpq h.envelope

/-- Moving the pc of a Running state on keeps the invariant. -/
theorem State.Sound.advancePc {q : Nat} {s : State} (h : s.Sound q) (hrun : s.HALT = false) : s.advancePc.Sound q where
  memory := h.memory
  wait := State.waitsOnKey_of_running hrun
  envelope := h.envelope

/-- An `Fx0A` that halts leaves `pc - 2` at itself, still in MEM (R173). -/
theorem State.waitsOnKey_halted {s : State} {x : Nibble} (hk : s.KEYS = 0) (hd : decodeWord s.fetched = .ok (.ldVxK x)) :
    (s.advancePc.setHalt true).waitsOnKey := by
  have hpc : s.pc + 2 - 2 = s.pc := BitVec.add_sub_cancel _ _
  exact fun _ => ⟨hk, x, by simpa [hpc, State.fetched] using hd⟩

/-- The instruction fetched by a Running state keeps the invariant. -/
theorem State.Sound.exec {q : Nat} {s t : State} {i : Instr} (h : s.Sound q) (hrun : s.HALT = false)
    (hd : decodeWord s.fetched = .ok i) (he : exec i s.advancePc = .next t) : t.Sound q := by
  rcases exec_cases he with hkeep | ⟨x, rfl, hk, rfl⟩
  · exact ⟨hkeep.memory h.memory, State.waitsOnKey_of_running (hkeep.halt.trans hrun), by
      simpa [State.accInRange, hkeep.acc] using h.envelope⟩
  · exact ⟨h.memory, State.waitsOnKey_halted hk hd, h.envelope⟩

/-- Every STEP keeps the invariant, for every STEP_MS = p/q of at most 50/3 ms. -/
theorem State.Sound.stepAt {p q : Nat} (hpq : 3 * p ≤ 50 * q) {s t : State} (h : s.Sound q)
    (hs : stepAt p q s = .next t) : t.Sound q := by
  have hu : (s.timerUpdate p q).Sound q := h.timerUpdate hpq
  rcases stepAt_cases p q s with ⟨-, hc⟩ | ⟨hrun, i, hd, hc⟩ | ⟨hrun, e, -, hc⟩
  · obtain rfl := Host.Outcome.next.inj (hc.symm.trans hs)
    exact hu
  · exact hu.exec (by simpa using hrun) (by simpa [State.fetched] using hd) (hc.symm.trans hs)
  · obtain rfl := Host.Outcome.next.inj (hc.symm.trans hs)
    exact hu.advancePc (by simpa using hrun)

/-! ## INIT and KEYS (R200, R172) -/

theorem State.Inv.initialise (fnt : List Byte) {rom : List Byte} (h : Rom.wellFormed rom = true) (draws : Nat) :
    (State.initialise fnt stepMsDen rom draws).Inv where
  memory := initMemory_wf fnt rom h
  wait := State.waitsOnKey_of_running rfl
  envelope := ⟨show (0 : Int) ≤ 50 * (stepMsDen : Int) by decide, le_rfl⟩

/-- Everything KEYS can do: resolve the wait of a Halted state, or replace the latch, which then is 0 if the state is
Halted (R172, decision D17). -/
theorem State.updateKeys_cases (mask : Word) (s : State) :
    (∃ x v, s.updateKeys mask = ((s.setKeys mask).writeV x v).setHalt false) ∨
    ((s.HALT = true → mask = 0) ∧ s.updateKeys mask = s.setKeys mask) := by
  unfold State.updateKeys
  by_cases h : s.HALT = true ∧ mask ≠ 0
  · exact .inl ⟨_, _, if_pos h⟩
  · exact .inr ⟨fun hh => by_contra fun hm => h ⟨hh, hm⟩, if_neg h⟩

theorem State.Sound.updateKeys {q : Nat} {s : State} (h : s.Sound q) (mask : Word) : (s.updateKeys mask).Sound q := by
  rcases State.updateKeys_cases mask s with ⟨x, v, hu⟩ | ⟨hmask, hu⟩ <;> rw [hu]
  · exact ⟨h.memory, State.waitsOnKey_of_running rfl, h.envelope⟩
  · exact ⟨h.memory, fun hh => ⟨hmask hh, (h.wait hh).2⟩, h.envelope⟩

/-! ## The block (R5, R184) -/

/-- STEP answers a block only when the state steps, and then the block of the next state. -/
theorem liftOutcome_eq_next {o : Host.Outcome State Fault Refusal} {b : Block} (h : liftOutcome o = .next b) :
    ∃ s, o = .next s ∧ b = .ready s := by
  cases o with
  | next s => exact ⟨s, rfl, (Host.Outcome.next.inj h).symm⟩
  | fault f => cases h
  | refused r => cases h

/-- INIT answers a block only for a ROM that fits (R201). -/
theorem Block.init_eq_next {rom : List Byte} {b b' : Block} (h : b.init rom = .next b') :
    Rom.wellFormed rom = true ∧ b' = .ready (State.initialise font stepMsDen rom b.draws) := by
  unfold Block.init at h
  split at h
  · exact ⟨‹_›, (Host.Outcome.next.inj h).symm⟩
  · cases h

theorem transact_keeps_inv {x : Transaction} {b b' : Block} (hb : b.Inv) (h : transact x b = .next b') : b'.Inv := by
  cases x with
  | init rom =>
    obtain ⟨hrom, rfl⟩ := Block.init_eq_next h
    exact State.Inv.initialise font hrom b.draws
  | step =>
    cases b with
    | uninit d => cases h
    | ready s =>
      obtain ⟨t, hs, rfl⟩ := liftOutcome_eq_next h
      exact State.Sound.stepAt (by decide) hb hs
  | keys mask =>
    cases b with
    | uninit d => cases h
    | ready s =>
      obtain rfl := Host.Outcome.next.inj h
      exact State.Sound.updateKeys hb mask
  | frame =>
    cases b with
    | uninit d => cases h
    | ready s =>
      obtain rfl := Host.Outcome.next.inj h
      exact hb

/-- The block after a transaction: the one it answers, or none with a state (R201, R32). -/
theorem Block.after_cases (x : Transaction) (b : Block) :
    transact x b = .next (b.after x) ∨ b.after x = .uninit b.draws := by
  unfold Block.after
  cases transact x b with
  | next b' => exact .inl rfl
  | fault f => exact .inr rfl
  | refused r => exact .inr rfl

theorem Block.after_keeps_inv (x : Transaction) {b : Block} (hb : b.Inv) : (b.after x).Inv := by
  rcases Block.after_cases x b with h | h
  · exact transact_keeps_inv hb h
  · rw [h]; trivial

theorem Block.afterAll_keeps_inv (xs : List Transaction) {b : Block} (hb : b.Inv) : (Block.afterAll xs b).Inv := by
  induction xs generalizing b with
  | nil => exact hb
  | cons x xs ih => exact ih (Block.after_keeps_inv x hb)

/-- Settles O59: each of the four transactions keeps the invariant, hence every sequence does, by induction on it. -/
theorem everyTransactionKeepsTheInvariant : Obligations.EveryTransactionKeepsTheInvariant :=
  ⟨fun _ _ _ => transact_keeps_inv, fun xs _ => Block.afterAll_keeps_inv xs⟩

end Sys2Proof.Machine
end

section
/-! PROOFS: only the low 12 bits of I are observable (R23, decision D3). A state and its copy with another I of the same
cell run in step: every address is reduced modulo 4096 at the port, and no other operation reads I. -/

namespace Sys2Proof.Machine

theorem SameButIndexHigh.of_setI {s t : State} {a : Word} (ht : t = s.setI a)
    (ha : a.toNat % 4096 = s.I.toNat % 4096) : SameButIndexHigh s t := by
  subst ht; exact ⟨rfl, ha⟩

/-! ## Operations that do not address through I -/

@[simp] theorem State.skipIf_I (c : Bool) (s : State) : (s.skipIf c).I = s.I := by rw [State.skipIf_eq]; rfl

theorem State.skipIf_setI (c : Bool) (s : State) (a : Word) : (s.setI a).skipIf c = (s.skipIf c).setI a := by
  cases c <;> rfl

@[simp] theorem State.drawFirst_I (cx cy k : Nat) (s : State) : (State.drawFirst cx cy k s).I = s.I := by
  rw [State.drawFirst_eq]

@[simp] theorem State.timerUpdate_I (p q : Nat) (s : State) : (s.timerUpdate p q).I = s.I := by
  rw [State.timerUpdate_eq]

theorem State.timerUpdate_setI (p q : Nat) (s : State) (a : Word) :
    (s.setI a).timerUpdate p q = (s.timerUpdate p q).setI a := by
  by_cases h : s.ACC - 3 * (p : Int) < 0 <;> simp only [State.timerUpdate, State.setI_ACC, h, if_true, if_false] <;> rfl

/-- Adding the same number keeps the low 12 bits of two indices equal. -/
theorem add_toNat_mod_4096 {a b : Word} (h : a.toNat % 4096 = b.toNat % 4096) (v : Word) :
    (a + v).toNat % 4096 = (b + v).toNat % 4096 := by
  simp only [BitVec.toNat_add]; omega

/-! ## Operations that address through I -/

section
variable {s : State} {a : Word} (ha : a.toNat % 4096 = s.I.toNat % 4096)
include ha

/-- An effective address selects the same cell. -/
theorem cellOf_indexed_setI (k : Nat) : cellOf ((s.setI a).indexed k) = cellOf (s.indexed k) := by
  rw [cellOf_indexed, cellOf_indexed, State.setI_I, Nat.add_mod, ha, ← Nat.add_mod]

theorem State.memRead_indexed_setI (t : State) (k : Nat) :
    (t.setI a).memRead ((s.setI a).indexed k) = t.memRead (s.indexed k) := by
  rw [State.memRead, cellOf_indexed_setI ha]; rfl

theorem State.memWrite_indexed_setI (t : State) (k : Nat) (v : Byte) :
    (t.setI a).memWrite ((s.setI a).indexed k) v = (t.memWrite (s.indexed k) v).setI a := by
  rw [State.memWrite, cellOf_indexed_setI ha]; rfl

theorem State.storeFirst_setI (k : Nat) : State.storeFirst k (s.setI a) = (State.storeFirst k s).setI a := by
  induction k with
  | zero => rfl
  | succ k ih => rw [State.storeFirst, ih, State.memWrite_indexed_setI (by simpa using ha)]; rfl

theorem State.loadFirst_setI (k : Nat) : State.loadFirst k (s.setI a) = (State.loadFirst k s).setI a := by
  induction k with
  | zero => rfl
  | succ k ih => rw [State.loadFirst, ih, State.memRead_indexed_setI (by simpa using ha)]; rfl

theorem State.drawRow_setI (cx cy r : Nat) :
    State.drawRow cx cy r (s.setI a) = (State.drawRow cx cy r s).setI a := by
  simp only [State.drawRow, State.memRead_indexed_setI ha, State.row_setI]
  split <;> rfl

theorem State.drawFirst_setI (cx cy k : Nat) :
    State.drawFirst cx cy k (s.setI a) = (State.drawFirst cx cy k s).setI a := by
  induction k with
  | zero => rfl
  | succ k ih => rw [State.drawFirst, ih, State.drawRow_setI (by simpa using ha)]; rfl

end

/-! ## Instructions and steps -/

/-- Every instruction answers states that again differ at most in the high bits of I. -/
theorem exec_sameButIndexHigh {i : Instr} {s t s' : State} (hst : SameButIndexHigh s t) (h : exec i s = .next s') :
    ∃ t', exec i t = .next t' ∧ SameButIndexHigh s' t' := by
  obtain ⟨ht, ha⟩ := hst
  generalize t.I = a at ht ha
  subst ht
  cases i with
  | cls | ret | jp | call | jpV0 | ldImm | addImm | ldReg | orReg | andReg | xorReg | addReg | sub | shr | subn | shl
  | rnd | ldVxDT | ldDTVx | ldSTVx =>
    obtain rfl := Host.Outcome.next.inj h
    exact ⟨_, rfl, .of_setI rfl ha⟩
  | seImm | sneImm | seReg | sneReg | skp | sknp =>
    obtain rfl := Host.Outcome.next.inj h
    exact ⟨_, rfl, .of_setI (State.skipIf_setI _ s a) (by simpa using ha)⟩
  | ldVxK x =>
    obtain rfl := Host.Outcome.next.inj h
    refine ⟨_, rfl, ?_⟩
    rw [State.setI_KEYS]
    split <;> exact .of_setI rfl ha
  | ldI | ldF =>
    obtain rfl := Host.Outcome.next.inj h
    exact ⟨_, rfl, rfl, rfl⟩
  | addI x =>
    obtain rfl := Host.Outcome.next.inj h
    exact ⟨_, rfl, rfl, add_toNat_mod_4096 ha _⟩
  | ldB x =>
    obtain rfl := Host.Outcome.next.inj h
    exact ⟨_, rfl, .of_setI (by simp only [State.memWrite_indexed_setI ha, State.readV_setI]) ha⟩
  | storeRegs x =>
    obtain rfl := Host.Outcome.next.inj h
    refine ⟨_, rfl, ?_⟩
    rw [State.storeFirst_setI ha]
    exact ⟨rfl, add_toNat_mod_4096 (by simpa using ha) _⟩
  | loadRegs x =>
    obtain rfl := Host.Outcome.next.inj h
    refine ⟨_, rfl, ?_⟩
    rw [State.loadFirst_setI ha]
    exact ⟨rfl, add_toNat_mod_4096 (by simpa using ha) _⟩
  | drw x y n =>
    obtain rfl := Host.Outcome.next.inj h
    exact ⟨_, rfl, .of_setI (State.drawFirst_setI (s := s.writeV vf 0) ha _ _ _) (by simpa [State.drawSprite] using ha)⟩

theorem execute_sameButIndexHigh {w b : Word} {s t s' : State} (hst : SameButIndexHigh s t)
    (h : (execute w b s).1 = .next s') : ∃ t', (execute w b t).1 = .next t' ∧ SameButIndexHigh s' t' := by
  unfold execute at h ⊢
  cases hd : decodeWord w with
  | ok i => rw [hd] at h; exact exec_sameButIndexHigh hst h
  | error e =>
    rw [hd] at h
    obtain rfl := Host.Outcome.next.inj h
    exact ⟨t, rfl, hst⟩

/-- The outcome of a STEP in one equation: nothing after the timer update when Halted, else `Execute` of the fetched word. -/
theorem stepAt_eq (p q : Nat) (s : State) :
    stepAt p q s = if s.HALT then .next (s.timerUpdate p q)
      else (execute s.fetched s.pc (s.timerUpdate p q).advancePc).1 := by
  cases hh : s.HALT <;> simp [stepAt, cycle, hh, runOne, State.fetched]

theorem stepAt_sameButIndexHigh {p q : Nat} {s t s' : State} (hst : SameButIndexHigh s t)
    (h : stepAt p q s = .next s') : ∃ t', stepAt p q t = .next t' ∧ SameButIndexHigh s' t' := by
  obtain ⟨ht, ha⟩ := hst
  rw [ht, stepAt_eq, State.timerUpdate_setI, State.setI_HALT]
  rw [stepAt_eq] at h
  have hu : SameButIndexHigh (s.timerUpdate p q) ((s.timerUpdate p q).setI t.I) := .of_setI rfl (by simpa using ha)
  by_cases hh : s.HALT = true
  · rw [if_pos hh] at h ⊢
    obtain rfl := Host.Outcome.next.inj h
    exact ⟨_, rfl, hu⟩
  · rw [if_neg hh] at h ⊢
    exact execute_sameButIndexHigh (s := (s.timerUpdate p q).advancePc) (.of_setI rfl hu.2) h

/-- Settles O19: every address is reduced modulo 4096 at the port, so the two states step to states of the same kind. -/
theorem indexHighBitsAreUnobservable : Obligations.IndexHighBitsAreUnobservable :=
  fun _ _ _ hst h => stepAt_sameButIndexHigh hst h

end Sys2Proof.Machine
end

section
/-! PROOFS: the access table of R35. Each instruction is built of the named operations, whose frames stand in
Laws/Frames.lean; an instruction's frame is the union of its operations' frames. -/

namespace Sys2Proof.Machine

theorem unchanged_drawSprite (x y n : Nibble) (s : State) :
    UnchangedBut (fun c => c = .v vf ∨ ∃ k, k < n.toNat ∧ c = .row (spriteTarget (s.spriteRow y) k)) s
      (s.drawSprite .operandsFirst x y n) :=
  ((unchanged_writeV s vf 0).mono fun _ => .inl).trans (unchanged_drawFirst _ _ _ _)

theorem unchanged_bumpI (s : State) (x : Nibble) : UnchangedBut (fun c => c = .index) s (s.bumpI x) :=
  unchanged_setI s _

/-- A store at `I + k`, `k` below `n`, with the cell computed in the state `s` on entry (R143). -/
theorem unchanged_memWrite_indexed (s t : State) {k n : Nat} (hk : k < n) (v : Byte) :
    UnchangedBut (fun c => ∃ j, j < n ∧ c = .cell (cellOf (s.indexed j))) t (t.memWrite (s.indexed k) v) :=
  (unchanged_memWrite t _ v).mono fun _ h => ⟨k, hk, h⟩

/-- The parts an instruction changes are among those the table of R35 lets it write. -/
theorem exec_unchangedBut_mayWrite {i : Instr} {s t : State} (h : exec i s = .next t) :
    UnchangedBut (mayWrite i s) s t := by
  cases i with
  | cls =>
    obtain rfl := Host.Outcome.next.inj h
    exact unchanged_clearRows s
  | ret =>
    obtain rfl := Host.Outcome.next.inj h
    exact ((unchanged_dropTop s).mono fun _ => .inr).trans ((unchanged_setPc _ _).mono fun _ => .inl)
  | call nnn =>
    obtain rfl := Host.Outcome.next.inj h
    exact ((unchanged_push s _).mono fun _ => .inr).trans ((unchanged_setPc _ _).mono fun _ => .inl)
  | jp | jpV0 =>
    obtain rfl := Host.Outcome.next.inj h
    exact unchanged_setPc s _
  | seImm | sneImm | seReg | sneReg | skp | sknp =>
    obtain rfl := Host.Outcome.next.inj h
    exact unchanged_skipIf _ s
  | ldImm | addImm | ldReg | orReg | andReg | xorReg | ldVxDT =>
    obtain rfl := Host.Outcome.next.inj h
    exact unchanged_writeV s _ _
  | addReg | sub | shr | subn | shl =>
    obtain rfl := Host.Outcome.next.inj h
    exact unchanged_flagOp _ _ _ s
  | rnd x kk =>
    obtain rfl := Host.Outcome.next.inj h
    exact ((unchanged_tookDraw s).mono fun _ => .inr).trans ((unchanged_writeV _ x _).mono fun _ => .inl)
  | drw x y n =>
    obtain rfl := Host.Outcome.next.inj h
    exact unchanged_drawSprite x y n s
  | ldVxK x =>
    obtain rfl := Host.Outcome.next.inj h
    by_cases hk : s.KEYS = 0
    · rw [if_neg (not_not.mpr hk)]
      exact (unchanged_setHalt s true).mono fun _ hp => (if_neg (not_not.mpr hk)).mpr hp
    · rw [if_pos hk]
      exact (unchanged_writeV s x _).mono fun _ hp => (if_pos hk).mpr hp
  | ldDTVx x =>
    obtain rfl := Host.Outcome.next.inj h
    exact unchanged_setDT s _
  | ldSTVx x =>
    obtain rfl := Host.Outcome.next.inj h
    exact unchanged_setST s _
  | ldI | addI | ldF =>
    obtain rfl := Host.Outcome.next.inj h
    exact unchanged_setI s _
  | ldB x =>
    obtain rfl := Host.Outcome.next.inj h
    exact ((unchanged_memWrite_indexed s s (k := 0) (by decide) _).trans
      (unchanged_memWrite_indexed s _ (k := 1) (by decide) _)).trans
      (unchanged_memWrite_indexed s _ (k := 2) (by decide) _)
  | storeRegs x =>
    obtain rfl := Host.Outcome.next.inj h
    refine ((unchanged_storeFirst _ s).mono ?_).trans ((unchanged_bumpI _ x).mono fun _ => .inl)
    rintro p ⟨j, hj, hp⟩
    exact .inr ⟨j, by omega, hp⟩
  | loadRegs x =>
    obtain rfl := Host.Outcome.next.inj h
    refine ((unchanged_loadFirst _ x.isLt s).mono ?_).trans ((unchanged_bumpI _ x).mono fun _ => .inl)
    rintro p ⟨j, hj, hp⟩
    exact .inr ⟨j, Nat.lt_succ_iff.mp hj, hp⟩

/-- Settles O57: the frame of each instruction, by cases on the 34 constructors. -/
theorem instructionsWriteOnlyTheirParts : Obligations.InstructionsWriteOnlyTheirParts :=
  fun _ _ _ => exec_unchangedBut_mayWrite

end Sys2Proof.Machine
end

section
/-! PROOFS: INIT and the block without a state. INIT's memory is read back cell by cell (R33, R200); the empty ROM gives the
state of reset (log entry 19); nothing runs before a valid INIT (R32, R201, decisions D10, D20). -/

namespace Sys2Proof.Machine

/-! ## What INIT's memory reads as -/

/-- Above the font, a cell that nothing has written reads as zero. -/
theorem Memory.blank_of_ge {a : Nat} (h : 80 ≤ a) : Memory.blank a = 0 :=
  List.getD_eq_default _ _ (font_length.trans_le h)

/-- After INIT with a font of 80 bytes: the font at its start, then the ROM from 0x200, and zero in every other cell (R200). -/
theorem read_initMemory {fnt : List Byte} (hf : fnt.length = 80) (rom : List Byte) (a : Nat) :
    Memory.read (initMemory fnt rom) a =
      if a < 80 then fnt.getD a 0
      else if 0x200 ≤ a ∧ a < 0x200 + rom.length then rom.getD (a - 0x200) 0 else 0 := by
  have htake : fnt.take 80 = fnt := List.take_of_length_le hf.le
  simp only [initMemory, Memory.read_writeList, htake, hf, List.length_replicate, Config.fontSize, Config.programBase,
    Nat.zero_le, true_and, Nat.zero_add, Nat.sub_zero]
  by_cases ha : a < 80
  · simp only [ha, if_true]
  · simp only [ha, if_false, Memory.read, Memory.blank_of_ge (not_lt.mp ha)]

theorem read_initMemory_font {fnt : List Byte} (hf : fnt.length = 80) (rom : List Byte) {a : Nat} (h : a < fnt.length) :
    Memory.read (initMemory fnt rom) a = fnt[a] := by
  rw [read_initMemory hf, if_pos (hf ▸ h), List.getD_eq_getElem _ _ h]

theorem read_initMemory_rom {fnt : List Byte} (hf : fnt.length = 80) (rom : List Byte) {i : Nat} (h : i < rom.length) :
    Memory.read (initMemory fnt rom) (0x200 + i) = rom[i] := by
  rw [read_initMemory hf, if_neg (by omega), if_pos (by omega), Nat.add_sub_cancel_left, List.getD_eq_getElem _ _ h]

theorem read_initMemory_zero {fnt : List Byte} (hf : fnt.length = 80) (rom : List Byte) {a : Nat} (ha : 80 ≤ a)
    (h : a < 0x200 ∨ 0x200 + rom.length ≤ a) : Memory.read (initMemory fnt rom) a = 0 := by
  rw [read_initMemory hf, if_neg (by omega), if_neg (by omega)]

/-! ## The state INIT gives (R33) -/

/-- The reload of 50 q units is 50/3 ms (R28). -/
theorem accMs_initialise (fnt rom : List Byte) {q : Nat} (hq : 0 < q) (d : Nat) :
    (State.initialise fnt q rom d).accMs q = 50 / 3 := by
  have hq' : (q : Rat) ≠ 0 := by exact_mod_cast hq.ne'
  simp only [State.accMs, State.initialise]
  push_cast
  field_simp

theorem readV_initialise (fnt rom : List Byte) (q d : Nat) (x : Nibble) : (State.initialise fnt q rom d).readV x = 0 :=
  Vector.getElem_replicate _

theorem stackEntry_initialise (fnt rom : List Byte) (q d : Nat) (i : Nibble) :
    (State.initialise fnt q rom d).stackEntry i = 0 := Vector.getElem_replicate _

theorem row_initialise (fnt rom : List Byte) (q d : Nat) (r : Fin 32) : (State.initialise fnt q rom d).row r = 0 :=
  Vector.getElem_replicate _

/-- Settles O1: the memory rows of R33's table by `read_initMemory`, the others from `State.reset`. -/
theorem initGivesTheResetTable : Obligations.InitGivesTheResetTable := by
  intro fnt rom q d hf _ hq
  exact ⟨readV_initialise fnt rom q d, rfl, rfl, rfl, stackEntry_initialise fnt rom q d, rfl, rfl,
    row_initialise fnt rom q d, rfl, rfl, accMs_initialise fnt rom hq d, fun a h => read_initMemory_font hf rom h,
    fun a ha h => read_initMemory_zero hf rom ha (by omega), fun i h => read_initMemory_rom hf rom h,
    fun a ha _ => read_initMemory_zero hf rom (by omega) (by omega), rfl, rfl⟩

/-! ## Reset is INIT with the empty ROM (log entry 19) -/

/-- A canonical memory in which every cell reads as blank lists nothing. -/
theorem Memory.wf.eq_nil {m : Memory} (h : Memory.wf m) (hb : ∀ a, Memory.read m a = Memory.blank a) : m = [] := by
  cases m with
  | nil => rfl
  | cons c m =>
    have hc : c.2 = Memory.blank c.1 := by simpa [Memory.read] using hb c.1
    exact absurd hc (h.2 c (by simp)).2

theorem initMemory_font_nil : initMemory font [] = [] := by
  refine (initMemory_wf font [] rfl).eq_nil fun a => ?_
  rw [read_initMemory font_length]
  by_cases ha : a < 80
  · rw [if_pos ha]; rfl
  · rw [if_neg ha, if_neg (by simp), Memory.blank_of_ge (not_lt.mp ha)]

theorem reset_eq_initialise : State.reset = State.initialise font stepMsDen [] 0 := by
  rw [State.initialise, initMemory_font_nil]; rfl

/-- Settles O2: INIT of the empty ROM writes the font over the font. -/
theorem resetIsInitWithTheEmptyRom : Obligations.ResetIsInitWithTheEmptyRom :=
  ⟨reset_eq_initialise, by rw [reset_eq_initialise]; rfl⟩

/-- Settles O5: reset is an INIT, and every INIT meets the invariant. -/
theorem resetMeetsTheInvariant : Obligations.ResetMeetsTheInvariant := by
  rw [Obligations.ResetMeetsTheInvariant, reset_eq_initialise]
  exact State.Inv.initialise font rfl 0

/-! ## Before a valid INIT (R32, R201) -/

theorem Block.init_oversized {rom : List Byte} (h : 3584 < rom.length) (b : Block) : b.init rom = .refused .oversizedRom := by
  rw [Block.init, (Rom.wellFormed_eq_false_iff rom).mpr h]; rfl

/-- Of the transactions on a block without a state only an INIT that fits gives it one. -/
theorem Block.after_uninit {t : Transaction} (h : ∀ rom, t = .init rom → 3584 < rom.length) (d : Nat) :
    Block.after t (.uninit d) = .uninit d := by
  cases t with
  | init rom => rw [Block.after, transact, Block.init_oversized (h rom rfl)]; rfl
  | step | keys | frame => rfl

theorem Block.afterAll_uninit {ts : List Transaction} (h : ∀ rom, Transaction.init rom ∈ ts → 3584 < rom.length)
    (d : Nat) : Block.afterAll ts (.uninit d) = .uninit d := by
  induction ts with
  | nil => rfl
  | cons t ts ih =>
    rw [Block.afterAll, Block.after_uninit (by rintro rom rfl; exact h rom (by simp))]
    exact ih fun rom hm => h rom (List.mem_cons_of_mem t hm)

/-- Settles O4: by induction on the sequence the block stays without a state, and there the three are refused. -/
theorem nothingRunsBeforeAValidInit : Obligations.NothingRunsBeforeAValidInit := by
  intro ts d h
  rw [Block.afterAll_uninit h]
  exact ⟨rfl, fun _ => ⟨rfl, rfl, rfl⟩⟩

end Sys2Proof.Machine
end

section
/-! PROOFS: nested calls (R24, R102, R207; the slot is decision D15). The `k`-th call, counted from 0, pushes into slot
`SP + k`; sixteen slots make the pushes of at most 16 calls distinct and the 17th one land on the first. -/

namespace Sys2Proof.Machine

/-! ## One call and one return -/

/-- The state after a CALL that executes in the pc `r`. -/
def State.called (s : State) (c : Word × Addr12) : State := ((s.setPc c.1).push c.1).setPc (addrOperand c.2)

theorem exec_call_setPc (s : State) (r : Word) (nnn : Addr12) :
    exec (.call nnn) (s.setPc r) = .next (s.called (r, nnn)) := rfl

@[simp] theorem State.called_SP (s : State) (c : Word × Addr12) : (s.called c).SP = s.SP + 1 := rfl

theorem State.stackEntry_called (s : State) (c : Word × Addr12) (i : Nibble) :
    (s.called c).stackEntry i = if i = s.SP then c.1 else s.stackEntry i :=
  State.stackEntry_push (s.setPc c.1) i c.1

/-- The state after a RET. -/
def State.returned (s : State) : State := s.dropTop.setPc (s.stackEntry (s.SP - 1))

theorem exec_ret (s : State) : exec .ret s = .next s.returned := rfl

@[simp] theorem State.returned_pc (s : State) : s.returned.pc = s.stackEntry (s.SP - 1) := rfl

@[simp] theorem State.stackEntry_returned (s : State) (i : Nibble) : s.returned.stackEntry i = s.stackEntry i := rfl

/-! ## Slots -/

/-- The slot the `k`-th push from here lands in. -/
def State.slot (s : State) (k : Nat) : Nibble := s.SP + BitVec.ofNat 4 k

@[simp] theorem State.slot_zero (s : State) : s.slot 0 = s.SP := BitVec.add_zero _

theorem State.slot_called (s : State) (c : Word × Addr12) (k : Nat) : (s.called c).slot k = s.slot (k + 1) := by
  simp only [State.slot, State.called_SP]
  bv_omega

theorem State.slot_sixteen (s : State) : s.slot 16 = s.SP := BitVec.add_zero _

/-- The next 15 pushes leave the slot of the last one alone. -/
theorem State.slot_succ_ne (s : State) {k : Nat} (hk : k < 15) : s.slot (k + 1) ≠ s.SP := by
  simp only [State.slot]
  bv_omega

/-! ## Nested calls -/

/-- What nested calls have done to the stack: SP has grown by their number, the `k`-th slot holds the `k`-th return address,
and the other slots are as they were. -/
structure State.Stacked (s : State) (rs : List Word) (t : State) : Prop where
  sp : t.SP = s.slot rs.length
  entry : ∀ (k : Nat) (h : k < rs.length), t.stackEntry (s.slot k) = rs[k]
  other : ∀ i, (∀ k < rs.length, i ≠ s.slot k) → t.stackEntry i = s.stackEntry i

/-- At most 16 nested calls complete, each with its return address in a slot of its own. -/
theorem calls_stacked (cs : List (Word × Addr12)) (hcs : cs.length ≤ 16) (s : State) :
    ∃ t, Calls cs s t ∧ s.Stacked (cs.map Prod.fst) t := by
  induction cs generalizing s with
  | nil => exact ⟨s, rfl, by simp, by simp, fun _ _ => rfl⟩
  | cons c cs ih =>
    simp only [List.length_cons] at hcs
    obtain ⟨t, ht, hsp, hentry, hother⟩ := ih (by omega) (s.called c)
    simp only [List.length_map, List.getElem_map, State.slot_called] at hsp hentry hother
    refine ⟨t, ⟨_, exec_call_setPc s c.1 c.2, ht⟩, by simpa using hsp, ?_, ?_⟩
    · rintro (_ | k) hk
      · rw [State.slot_zero, hother s.SP (fun k hk => (s.slot_succ_ne (by omega)).symm), State.stackEntry_called,
          if_pos rfl]
        rfl
      · simpa using hentry k (by simpa using hk)
    · intro i hi
      have hne : i ≠ s.SP := by simpa using hi 0 (by simp)
      rw [hother i (fun k hk => hi (k + 1) (by simpa using hk)), State.stackEntry_called, if_neg hne]

/-! ## Nested returns -/

/-- Returns load the stacked addresses, newest first, and step SP back; they clear no slot. -/
theorem returns_of_stacked (s : State) (rs : List Word) (t : State) (hsp : t.SP = s.slot rs.length)
    (hentry : ∀ (k : Nat) (h : k < rs.length), t.stackEntry (s.slot k) = rs[k]) :
    ∃ u, Returns rs.reverse t u ∧ u.SP = s.SP := by
  induction rs using List.reverseRecOn generalizing t with
  | nil => exact ⟨t, rfl, by simpa using hsp⟩
  | append_singleton rs r ih =>
    have hdrop : t.SP - 1 = s.slot rs.length := by
      rw [hsp]; simp only [State.slot, List.length_append, List.length_singleton]; bv_omega
    obtain ⟨u, hu, husp⟩ := ih t.returned hdrop fun k hk => by
      have := hentry k (by simp; omega)
      simpa [List.getElem_append_left hk] using this
    have hpc : t.returned.pc = r := by
      rw [State.returned_pc, hdrop]
      simpa using hentry rs.length (by simp)
    rw [List.reverse_concat]
    exact ⟨u, ⟨_, exec_ret t, hpc, hu⟩, husp⟩

/-- Settles O30: `calls_stacked` fills the slots, `returns_of_stacked` empties them, and slot 16 is slot 0. -/
theorem sixteenCallsUnwindAndTheNextOverwrites : Obligations.SixteenCallsUnwindAndTheNextOverwrites := by
  constructor
  · intro s cs hcs
    obtain ⟨t, ht, hst⟩ := calls_stacked cs hcs s
    obtain ⟨u, hu, husp⟩ := returns_of_stacked s _ t hst.sp hst.entry
    exact ⟨t, u, ht, hu, husp⟩
  · intro s c cs r nnn hcs
    obtain ⟨t, ht, hst⟩ := calls_stacked (c :: cs) (by simp [hcs]) s
    have hsp : t.SP = s.SP := by rw [hst.sp, ← s.slot_sixteen]; simp [hcs]
    refine ⟨t, t.called (r, nnn), ht, hsp, by simpa using hst.entry 0 (by simp), exec_call_setPc t r nnn, ?_, ?_, ?_⟩
    · rw [State.stackEntry_called, if_pos hsp.symm]
    · rw [State.called_SP, hsp]
    · intro i hi
      rw [State.stackEntry_called, if_neg (hsp ▸ hi)]

end Sys2Proof.Machine
end

section
/-! PROOFS: VF after a flag-writing instruction is 0 or 1 (R21). -/

namespace Sys2Proof.Machine

theorem flagByte_eq_zero_or_one (b : Bool) : flagByte b = 0 ∨ flagByte b = 1 := by cases b <;> simp [flagByte]

/-- The flag frame leaves in VF the flag it computes, unless VF is the destination (R126). -/
theorem readV_vf_flagOp (f : Byte → Byte → Byte × Byte) {x : Nibble} (hx : x ≠ vf) (y : Nibble) (s : State) :
    (s.flagOp .operandsFirst f x y).readV vf = (f (s.readV x) (s.readV y)).1 := by
  rw [State.readV_flagOp, if_neg hx.symm, if_pos rfl]

/-- `Dxyn` leaves in VF the 0 it starts from, or the 1 of a collision (R152). -/
theorem readV_vf_drawSprite (x y n : Nibble) (s : State) :
    (s.drawSprite .operandsFirst x y n).readV vf = 0 ∨ (s.drawSprite .operandsFirst x y n).readV vf = 1 := by
  have hn : n.toNat ≤ 32 := by have := n.isLt; omega
  rw [State.drawSprite, State.readV_drawFirst _ _ _ hn]
  split
  · exact .inr rfl
  · exact .inl (State.readV_writeV_same s vf 0)

/-- Settles O37: the five ALU flags are each a `flagByte`, and the draw's is set by `readV_vf_drawSprite`. -/
theorem flagsAreZeroOrOne : Obligations.FlagsAreZeroOrOne := by
  rintro i s t x y n (⟨hx, hi⟩ | rfl) h
  · simp only [List.mem_cons, List.not_mem_nil, or_false] at hi
    rcases hi with rfl | rfl | rfl | rfl | rfl
    all_goals
      obtain rfl := Host.Outcome.next.inj h
      exact (readV_vf_flagOp _ hx y s).symm ▸ flagByte_eq_zero_or_one _
  · obtain rfl := Host.Outcome.next.inj h
    exact readV_vf_drawSprite x y n s

end Sys2Proof.Machine
end

section
/-! PROOFS: memory (R50, R55, R61). A read gives the last write; a memory in canonical form (log entry 19) lists a cell
exactly when the cell does not read as blank, so what its cells read as fixes the list. -/

namespace Sys2Proof.Machine

/-- Settles O55: the two cases of a read after a write. -/
theorem memoryReadsTheLastWrite : Obligations.MemoryReadsTheLastWrite := by
  intro s a b v
  rw [State.memRead_memWrite]
  exact ⟨fun h => if_pos h.symm, fun h => if_neg (Ne.symm h)⟩

/-! ## What a canonical memory lists -/

/-- With rising addresses no entry is shadowed by an earlier one. -/
theorem Memory.read_of_mem {m : Memory} (h : m.Pairwise (fun c d => c.1 < d.1)) {c : Host.Cell} (hc : c ∈ m) :
    Memory.read m c.1 = c.2 := by
  induction m with
  | nil => cases hc
  | cons d m ih =>
    obtain ⟨hd, hm⟩ := List.pairwise_cons.mp h
    rcases List.mem_cons.mp hc with rfl | hc
    · simp [Memory.read]
    · have hne : d.1 ≠ c.1 := (hd c hc).ne
      simpa [Memory.read, hne] using ih hm hc

theorem Memory.mem_of_read_ne_blank {m : Memory} {a : Nat} (h : Memory.read m a ≠ Memory.blank a) :
    (a, Memory.read m a) ∈ m := by
  induction m with
  | nil => exact absurd rfl h
  | cons d m ih =>
    by_cases hd : d.1 = a
    · subst hd; simp [Memory.read]
    · simp only [Memory.read, if_neg hd] at h ⊢
      exact List.mem_cons_of_mem d (ih h)

/-- Only the cells that do not read as blank are listed, each with the byte it reads as. -/
theorem Memory.wf.mem_iff {m : Memory} (h : Memory.wf m) {c : Host.Cell} :
    c ∈ m ↔ c.1 < Config.memSize ∧ Memory.read m c.1 = c.2 ∧ c.2 ≠ Memory.blank c.1 := by
  obtain ⟨hsorted, hcells⟩ := h
  constructor
  · intro hc
    obtain ⟨hlt, hne⟩ := hcells c hc
    exact ⟨hlt, Memory.read_of_mem hsorted hc, hne⟩
  · rintro ⟨-, hread, hne⟩
    have hmem := Memory.mem_of_read_ne_blank (hread.trans_ne hne)
    rwa [hread] at hmem

/-- Settles O56: by `Memory.wf.mem_iff` the two lists have the same entries, and both are in order of address. -/
theorem canonicalMemoriesAreExtensional : Obligations.CanonicalMemoriesAreExtensional := by
  intro m n hm hn hread
  have hmem : ∀ c, c ∈ m ↔ c ∈ n := by
    intro c
    rw [hm.mem_iff, hn.mem_iff]
    exact and_congr_right fun hlt => by rw [hread c.1 hlt]
  exact List.Pairwise.eq_of_mem_iff (r := Prod.fst ⁻¹'o (· < ·)) hm.1 hn.1 hmem

end Sys2Proof.Machine
end

section
/-! PROOFS: decoding and encoding (R70 to R78). `decodeWord` and `encode` invert each other, because a word is the format of
R72 over its own fields and each class fixes the fields it does not carry; the rows of R76 are pairwise disjoint and each
fixes the bits that decide legality. -/

namespace Sys2Proof

/-! ## Dispatch by class (R74) -/

section
variable {w : Word}

theorem decodeWord_of_class8 (h : fieldOp w = 0x8) : decodeWord w = decodeClass8 w := by simp [decodeWord, h]

theorem decodeWord_of_classE (h : fieldOp w = 0xE) : decodeWord w = decodeClassE w := by simp [decodeWord, h]

theorem decodeWord_of_classF (h : fieldOp w = 0xF) : decodeWord w = decodeClassF w := by simp [decodeWord, h]

end

/-! ## Decoding an encoded instruction -/

theorem decodeWord_encode (i : Instr) : decodeWord (encode i) = .ok i := by
  cases i with
  | cls | ret => decide
  | jp nnn | call nnn | ldI nnn | jpV0 nnn => simp [encode, decodeWord]
  | seImm x kk | sneImm x kk | ldImm x kk | addImm x kk | rnd x kk => simp [encode, decodeWord]
  | seReg x y | sneReg x y => simp [encode, decodeWord]
  | drw x y n => simp [encode, decodeWord]
  | ldReg x y | orReg x y | andReg x y | xorReg x y | addReg x y | sub x y | shr x y | subn x y | shl x y =>
    rw [encode, decodeWord_of_class8 (fieldOp_formatXYN ..)]
    simp [decodeClass8]
  | skp x | sknp x =>
    rw [encode, decodeWord_of_classE (fieldOp_formatXKK ..)]
    simp [decodeClassE]
  | ldVxDT x | ldVxK x | ldDTVx x | ldSTVx x | addI x | ldF x | ldB x | storeRegs x | loadRegs x =>
    rw [encode, decodeWord_of_classF (fieldOp_formatXKK ..)]
    simp [decodeClassF]

/-- Settles O6: an instruction's bytes spell its word (`decode_bytesOfWord`), and the word decodes to it. -/
theorem decodeInvertsEncode : Obligations.DecodeInvertsEncode := by
  intro i rest _
  rw [encodeBytes, decode_bytesOfWord, decodeWord_encode]

/-! ## Encoding a decoded word -/

section
variable {w : Word} {op n : Nat} {kk : Nat} {i : Instr}

theorem formatNNN_of_fields (hop : (fieldOp w).toNat = op) : formatNNN (BitVec.ofNat 4 op) (fieldNNN w) = w := by
  subst hop
  rw [BitVec.ofNat_toNat, BitVec.setWidth_eq, word_eq_formatNNN]

theorem formatXKK_of_fields (hop : (fieldOp w).toNat = op) :
    formatXKK (BitVec.ofNat 4 op) (fieldX w) (fieldKK w) = w := by
  subst hop
  rw [BitVec.ofNat_toNat, BitVec.setWidth_eq, word_eq_formatXKK]

theorem formatXYN_of_fields (hop : (fieldOp w).toNat = op) :
    formatXYN (BitVec.ofNat 4 op) (fieldX w) (fieldY w) (fieldN w) = w := by
  subst hop
  rw [BitVec.ofNat_toNat, BitVec.setWidth_eq, word_eq_formatXYN]

theorem formatXFF_of_fields (hop : (fieldOp w).toNat = op) (hkk : (fieldKK w).toNat = kk) :
    formatXKK (BitVec.ofNat 4 op) (fieldX w) (BitVec.ofNat 8 kk) = w := by
  subst hkk
  rw [BitVec.ofNat_toNat, BitVec.setWidth_eq, formatXKK_of_fields hop]

theorem formatXYF_of_fields (hop : (fieldOp w).toNat = op) (hn : (fieldN w).toNat = n) :
    formatXYN (BitVec.ofNat 4 op) (fieldX w) (fieldY w) (BitVec.ofNat 4 n) = w := by
  subst hn
  rw [BitVec.ofNat_toNat, BitVec.setWidth_eq, formatXYN_of_fields hop]

theorem encode_of_decodeClass0 (h : decodeClass0 w = .ok i) : encode i = w := by
  unfold decodeClass0 at h
  split_ifs at h with hcls hret
  · cases h; exact hcls.symm
  · cases h; exact hret.symm

/-- `shr` and `shl` carry the ignored y (log entry 23), so class 8 loses no field. -/
theorem encode_of_decodeClass8 (hop : (fieldOp w).toNat = 0x8) (h : decodeClass8 w = .ok i) : encode i = w := by
  unfold decodeClass8 at h
  split at h <;> cases h <;> exact formatXYF_of_fields hop ‹_›

theorem encode_of_decodeClassE (hop : (fieldOp w).toNat = 0xE) (h : decodeClassE w = .ok i) : encode i = w := by
  unfold decodeClassE at h
  split at h <;> cases h <;> exact formatXFF_of_fields hop ‹_›

theorem encode_of_decodeClassF (hop : (fieldOp w).toNat = 0xF) (h : decodeClassF w = .ok i) : encode i = w := by
  unfold decodeClassF at h
  split at h <;> cases h <;> exact formatXFF_of_fields hop ‹_›


theorem encode_of_decodeWord (h : decodeWord w = .ok i) : encode i = w := by
  unfold decodeWord at h
  split at h
  case h_1 => exact encode_of_decodeClass0 h
  case h_6 hop | h_10 hop =>
    split_ifs at h with hn
    cases h
    exact formatXYF_of_fields hop (congrArg BitVec.toNat hn)
  case h_9 hop => exact encode_of_decodeClass8 hop h
  case h_15 hop => exact encode_of_decodeClassE hop h
  case h_16 =>
    have hop : (fieldOp w).toNat = 0xF := by
      have := (fieldOp w).isLt
      simp only [imp_false] at *
      omega
    exact encode_of_decodeClassF hop h
  case h_2 hop | h_3 hop | h_11 hop | h_12 hop => cases h; exact formatNNN_of_fields hop
  case h_14 hop => cases h; exact formatXYN_of_fields hop
  all_goals cases h; exact formatXKK_of_fields ‹_›

end

/-- Settles O7: each class's decoder keeps the fields its format has (R71 to R76). -/
theorem encodeInvertsDecode : Obligations.EncodeInvertsDecode := fun _ _ => encode_of_decodeWord

/-! ## The illegal words (R78) -/

/-- The six rows of the table of illegal words of R78. -/
abbrev InIllegalTable (w : Word) : Prop :=
  (fieldOp w = 0x0 ∧ fieldNNN w ≠ 0x0E0 ∧ fieldNNN w ≠ 0x0EE) ∨
  (fieldOp w = 0x5 ∧ fieldN w ≠ 0) ∨
  (fieldOp w = 0x8 ∧ fieldN w ∈ [(0x8 : Nibble), 0x9, 0xA, 0xB, 0xC, 0xD, 0xF]) ∨
  (fieldOp w = 0x9 ∧ fieldN w ≠ 0) ∨
  (fieldOp w = 0xE ∧ fieldKK w ∉ [(0x9E : Byte), 0xA1]) ∨
  (fieldOp w = 0xF ∧ fieldKK w ∉ [(0x07 : Byte), 0x0A, 0x15, 0x18, 0x1E, 0x29, 0x33, 0x55, 0x65])

section
variable {w : Word}

/-- In class 0 the address field is all that is left of the word. -/
theorem eq_formatNNN_zero_iff (hop : fieldOp w = 0x0) (nnn : Addr12) : w = formatNNN 0x0 nnn ↔ fieldNNN w = nnn := by
  constructor
  · rintro rfl; exact fieldNNN_formatNNN ..
  · rintro rfl; rw [← hop, word_eq_formatNNN]

theorem decodeClass0_rejects_iff (hop : fieldOp w = 0x0) :
    (∃ e, decodeClass0 w = .error e) ↔ fieldNNN w ≠ 0x0E0 ∧ fieldNNN w ≠ 0x0EE := by
  have hcls : w = 0x00E0#16 ↔ fieldNNN w = 0x0E0 := eq_formatNNN_zero_iff hop 0x0E0
  have hret : w = 0x00EE#16 ↔ fieldNNN w = 0x0EE := eq_formatNNN_zero_iff hop 0x0EE
  unfold decodeClass0
  split_ifs with h1 h2
  · simp [hcls.mp h1]
  · simp [hret.mp h2]
  · exact ⟨fun _ => ⟨mt hcls.mpr h1, mt hret.mpr h2⟩, fun _ => ⟨_, rfl⟩⟩

theorem mem_illegal8_iff : ∀ n : Nibble,
    n ∈ [(0x8 : Nibble), 0x9, 0xA, 0xB, 0xC, 0xD, 0xF] ↔ n.toNat ∉ [0x0, 0x1, 0x2, 0x3, 0x4, 0x5, 0x6, 0x7, 0xE] := by
  decide

theorem decodeClass8_rejects_iff :
    (∃ e, decodeClass8 w = .error e) ↔ fieldN w ∈ [(0x8 : Nibble), 0x9, 0xA, 0xB, 0xC, 0xD, 0xF] := by
  rw [mem_illegal8_iff]
  unfold decodeClass8
  split <;> simp_all

theorem decodeClassE_rejects_iff : (∃ e, decodeClassE w = .error e) ↔ fieldKK w ∉ [(0x9E : Byte), 0xA1] := by
  unfold decodeClassE
  split <;> simp_all [← BitVec.toNat_inj]

theorem decodeClassF_rejects_iff :
    (∃ e, decodeClassF w = .error e) ↔
      fieldKK w ∉ [(0x07 : Byte), 0x0A, 0x15, 0x18, 0x1E, 0x29, 0x33, 0x55, 0x65] := by
  unfold decodeClassF
  split <;> simp_all [← BitVec.toNat_inj]

theorem rejects_iff_inIllegalTable : (∃ e, decodeWord w = .error e) ↔ InIllegalTable w := by
  unfold decodeWord
  split
  case h_1 hop =>
    have hop : fieldOp w = 0x0 := BitVec.eq_of_toNat_eq hop
    rw [decodeClass0_rejects_iff hop]; simp [InIllegalTable, hop]
  case h_6 hop =>
    have hop : fieldOp w = 0x5 := BitVec.eq_of_toNat_eq hop
    by_cases hn : fieldN w = 0#4 <;> simp [InIllegalTable, hop, hn]
  case h_9 hop =>
    have hop : fieldOp w = 0x8 := BitVec.eq_of_toNat_eq hop
    rw [decodeClass8_rejects_iff]; simp [InIllegalTable, hop]
  case h_10 hop =>
    have hop : fieldOp w = 0x9 := BitVec.eq_of_toNat_eq hop
    by_cases hn : fieldN w = 0#4 <;> simp [InIllegalTable, hop, hn]
  case h_15 hop =>
    have hop : fieldOp w = 0xE := BitVec.eq_of_toNat_eq hop
    rw [decodeClassE_rejects_iff]; simp [InIllegalTable, hop]
  case h_16 =>
    have hop : fieldOp w = 0xF := by
      have := (fieldOp w).isLt
      simp only [imp_false] at *
      exact BitVec.eq_of_toNat_eq (show _ = 0xF by omega)
    rw [decodeClassF_rejects_iff]; simp [InIllegalTable, hop]
  all_goals
    next hop => simp [InIllegalTable, ← BitVec.toNat_inj, hop]

end

/-- Settles O9: class by class, what each class's decoder rejects. -/
theorem illegalWordsAreThoseOfTheTable : Obligations.IllegalWordsAreThoseOfTheTable := fun _ => rejects_iff_inIllegalTable

/-! ## The opcode table (R74, R76) -/

theorem opcodeRows_wellFormed : OpcodeTable.WellFormed opcodeRows := by decide

/-- Settles O10: the 34 rows are data, and so are the bits any two of them both fix. -/
theorem opcodeTableIsDisjoint : Obligations.OpcodeTableIsDisjoint := ⟨by decide, opcodeRows_wellFormed⟩

theorem OpcodeRow.admits_iff {r : OpcodeRow} {w : Word} : r.admits w = true ↔ w &&& r.mask = r.pat := beq_iff_eq

/-- Disjoint rows differ in a bit that both fix, and a word has only one value there. -/
theorem OpcodeRow.not_admits_both {r q : OpcodeRow} {w : Word} (h : r.disjoint q = true) (hr : r.admits w = true) :
    ¬ q.admits w = true := by
  intro hq
  rw [OpcodeRow.admits_iff] at hr hq
  have hagree : (r.pat ^^^ q.pat) &&& (r.mask &&& q.mask) = 0 := by
    rw [← hr, ← hq]
    ext j hj
    simp only [BitVec.getElem_and, BitVec.getElem_xor, BitVec.ofNat_eq_ofNat, BitVec.getElem_zero]
    cases w[j] <;> cases r.mask[j] <;> cases q.mask[j] <;> rfl
  simp [OpcodeRow.disjoint, hagree] at h

theorem OpcodeRow.disjoint_comm (r q : OpcodeRow) : r.disjoint q = q.disjoint r := by
  rw [OpcodeRow.disjoint, OpcodeRow.disjoint, BitVec.xor_comm, BitVec.and_comm r.mask]

theorem opcodeRows_admits_unique {r q : OpcodeRow} {w : Word} (hr : r ∈ opcodeRows) (hq : q ∈ opcodeRows)
    (hrw : r.admits w = true) (hqw : q.admits w = true) : r = q := by
  by_contra hne
  have hsymm : Std.Symm fun r q : OpcodeRow => r.disjoint q = true := ⟨fun r q h => (q.disjoint_comm r).trans h⟩
  exact OpcodeRow.not_admits_both (opcodeRows_wellFormed.2.forall hr hq hne) hrw hqw

/-! ## The instruction's row -/

theorem Instr.rowNumber_le (i : Instr) : i.rowNumber ≤ 34 := by cases i <;> simp [Instr.rowNumber]

theorem Instr.row_mem (i : Instr) : i.row ∈ opcodeRows := by
  have hlen : opcodeRows.length = 34 := by decide
  have hlt : i.rowNumber - 1 < opcodeRows.length := by have := i.rowNumber_le; omega
  rw [Instr.row, List.getD_eq_getElem _ _ hlt]
  exact List.getElem_mem hlt

/-- The per-instruction statements of `Laws.RowMatch`, for every instruction. -/
theorem Instr.row_admits_encode : ∀ i : Instr, i.row.admits (encode i) = true
  | .cls => Laws.RowMatch.cls
  | .ret => Laws.RowMatch.ret
  | .jp nnn => Laws.RowMatch.jp nnn
  | .call nnn => Laws.RowMatch.call nnn
  | .seImm x kk => Laws.RowMatch.seImm x kk
  | .sneImm x kk => Laws.RowMatch.sneImm x kk
  | .seReg x y => Laws.RowMatch.seReg x y
  | .ldImm x kk => Laws.RowMatch.ldImm x kk
  | .addImm x kk => Laws.RowMatch.addImm x kk
  | .ldReg x y => Laws.RowMatch.ldReg x y
  | .orReg x y => Laws.RowMatch.orReg x y
  | .andReg x y => Laws.RowMatch.andReg x y
  | .xorReg x y => Laws.RowMatch.xorReg x y
  | .addReg x y => Laws.RowMatch.addReg x y
  | .sub x y => Laws.RowMatch.sub x y
  | .shr x y => Laws.RowMatch.shr x y
  | .subn x y => Laws.RowMatch.subn x y
  | .shl x y => Laws.RowMatch.shl x y
  | .sneReg x y => Laws.RowMatch.sneReg x y
  | .ldI nnn => Laws.RowMatch.ldI nnn
  | .jpV0 nnn => Laws.RowMatch.jpV0 nnn
  | .rnd x kk => Laws.RowMatch.rnd x kk
  | .drw x y n => Laws.RowMatch.drw x y n
  | .skp x => Laws.RowMatch.skp x
  | .sknp x => Laws.RowMatch.sknp x
  | .ldVxDT x => Laws.RowMatch.ldVxDT x
  | .ldVxK x => Laws.RowMatch.ldVxK x
  | .ldDTVx x => Laws.RowMatch.ldDTVx x
  | .ldSTVx x => Laws.RowMatch.ldSTVx x
  | .addI x => Laws.RowMatch.addI x
  | .ldF x => Laws.RowMatch.ldF x
  | .ldB x => Laws.RowMatch.ldB x
  | .storeRegs x => Laws.RowMatch.storeRegs x
  | .loadRegs x => Laws.RowMatch.loadRegs x

/-! ## A word that a row admits is legal -/

/-- A row admits only words that have its pattern's value in every field its mask covers. -/
theorem extractLsb'_eq_of_admits {r : OpcodeRow} {w : Word} (hw : r.admits w = true) {start len : Nat}
    (hmask : r.mask.extractLsb' start len = BitVec.allOnes len) :
    w.extractLsb' start len = r.pat.extractLsb' start len := by
  rw [← OpcodeRow.admits_iff.mp hw, BitVec.extractLsb'_and, hmask, BitVec.and_allOnes]

/-- Each row fixes the class and, where R78 has a row for the class, the field that row speaks of. -/
theorem opcodeRows_mask : ∀ r ∈ opcodeRows, fieldOp r.mask = BitVec.allOnes 4 ∧
    (fieldOp r.pat = 0x0 → fieldNNN r.mask = BitVec.allOnes 12) ∧
    (fieldOp r.pat ∈ [(0x5 : Nibble), 0x8, 0x9] → fieldN r.mask = BitVec.allOnes 4) ∧
    (fieldOp r.pat ∈ [(0xE : Nibble), 0xF] → fieldKK r.mask = BitVec.allOnes 8) := by decide

theorem opcodeRows_pat_legal : ∀ r ∈ opcodeRows, ¬ InIllegalTable r.pat := by decide

theorem not_inIllegalTable_of_admits {r : OpcodeRow} (hr : r ∈ opcodeRows) {w : Word} (hw : r.admits w = true) :
    ¬ InIllegalTable w := by
  obtain ⟨hmask, h0, hN, hKK⟩ := opcodeRows_mask r hr
  have hop : fieldOp w = fieldOp r.pat := extractLsb'_eq_of_admits hw hmask
  replace h0 (h : fieldOp r.pat = 0x0) : fieldNNN w = fieldNNN r.pat := extractLsb'_eq_of_admits hw (h0 h)
  replace hN (h : fieldOp r.pat ∈ _) : fieldN w = fieldN r.pat := extractLsb'_eq_of_admits hw (hN h)
  replace hKK (h : fieldOp r.pat ∈ _) : fieldKK w = fieldKK r.pat := extractLsb'_eq_of_admits hw (hKK h)
  refine mt (fun hill => ?_) (opcodeRows_pat_legal r hr)
  rw [InIllegalTable, hop] at hill
  rcases hill with ⟨h, hf⟩ | ⟨h, hf⟩ | ⟨h, hf⟩ | ⟨h, hf⟩ | ⟨h, hf⟩ | ⟨h, hf⟩
  · rw [h0 h] at hf; exact .inl ⟨h, hf⟩
  · rw [hN (by simp [h])] at hf; exact .inr (.inl ⟨h, hf⟩)
  · rw [hN (by simp [h])] at hf; exact .inr (.inr (.inl ⟨h, hf⟩))
  · rw [hN (by simp [h])] at hf; exact .inr (.inr (.inr (.inl ⟨h, hf⟩)))
  · rw [hKK (by simp [h])] at hf; exact .inr (.inr (.inr (.inr (.inl ⟨h, hf⟩))))
  · rw [hKK (by simp [h])] at hf; exact .inr (.inr (.inr (.inr (.inr ⟨h, hf⟩))))

/-- Settles O8: the decoded instruction encodes to the word, so its row admits the word and by disjointness no other does;
a rejected word stands in R78's table, where no row reaches. -/
theorem decodeAgreesWithTheTable : Obligations.DecodeAgreesWithTheTable := by
  constructor
  · intro w i h
    have hi : i.row.admits w = true := encode_of_decodeWord h ▸ i.row_admits_encode
    exact ⟨i.row_mem, hi, fun r hr hrw => opcodeRows_admits_unique hr i.row_mem hrw hi⟩
  · intro w e h r hr
    exact Bool.eq_false_iff.mpr fun hw => not_inIllegalTable_of_admits hr hw (rejects_iff_inIllegalTable.mp ⟨e, h⟩)

/-- Settles O11: each word is a literal. -/
theorem sampleWordsDecode : Obligations.SampleWordsDecode := by
  unfold Obligations.SampleWordsDecode
  decide

end Sys2Proof
end

section
/-! PROOFS: the step cycle (R90 to R96). Every instruction answers a next state, none writes KEYS, and a STEP does one of
three things (`stepAt_cases`): the timer update alone, the fetched instruction after it, or the skip of an illegal word. -/

namespace Sys2Proof.Machine

/-! ## What an instruction answers and leaves alone -/

/-- Each of the 34 meanings answers a next state (R92): none is a fault or a refusal. -/
theorem exec_completes (i : Instr) (s : State) : ∃ t, exec i s = .next t := by
  cases i <;> exact ⟨_, rfl⟩

/-- No row of the table of R35 lets an instruction write KEYS. -/
theorem not_mayWrite_keys (i : Instr) (s : State) : ¬ mayWrite i s .keys := by
  cases i with
  | ldVxK x => by_cases hk : s.KEYS = 0 <;> simp [mayWrite, hk]
  | _ => simp [mayWrite]

theorem exec_KEYS {i : Instr} {s t : State} (h : exec i s = .next t) : t.KEYS = s.KEYS :=
  exec_unchangedBut_mayWrite h .keys (not_mayWrite_keys i s)

/-! ## A STEP, Halted and Running -/

theorem stepAt_of_halted (p q : Nat) {s : State} (h : s.HALT = true) : stepAt p q s = .next (s.timerUpdate p q) := by
  rw [stepAt_eq, if_pos h]

theorem stepAt_of_decoded (p q : Nat) {s : State} {i : Instr} (hrun : s.HALT = false)
    (hd : decodeWord s.fetched = .ok i) : stepAt p q s = exec i (s.timerUpdate p q).advancePc := by
  simp [stepAt_eq, hrun, execute, hd]

/-- Decoding exactly two bytes is decoding the word they spell (R51, R70). -/
theorem decode_pair_eq_ok_iff {hi lo : Byte} {i : Instr} :
    decode [hi, lo] = .ok (i, []) ↔ decodeWord (wordOfBytes hi lo) = .ok i := by
  cases h : decodeWord (wordOfBytes hi lo) <;> simp [decode, h]

@[simp] theorem State.readV_timerUpdate (p q : Nat) (j : Nibble) (s : State) :
    (s.timerUpdate p q).readV j = s.readV j := by
  rw [State.timerUpdate_eq]; rfl

/-- Settles O15: the timer update and the skip of an illegal word are next states, and every instruction completes. -/
theorem everyStepCompletes : Obligations.EveryStepCompletes := by
  intro s p q
  rcases stepAt_cases p q s with ⟨-, hc⟩ | ⟨-, i, -, hc⟩ | ⟨-, e, -, hc⟩
  · exact ⟨_, hc⟩
  · exact hc ▸ exec_completes i _
  · exact ⟨_, hc⟩

theorem stepAt_KEYS {p q : Nat} {s t : State} (h : stepAt p q s = .next t) : t.KEYS = s.KEYS := by
  rcases stepAt_cases p q s with ⟨-, hc⟩ | ⟨-, i, -, hc⟩ | ⟨-, e, -, hc⟩ <;> rw [hc] at h
  · obtain rfl := Host.Outcome.next.inj h
    simp
  · simpa using exec_KEYS h
  · obtain rfl := Host.Outcome.next.inj h
    simp

/-- No STEP resumes: only KEYS clears HALT (R94, R173). -/
theorem stepAt_keeps_halted {p q : Nat} {s t : State} (h : stepAt p q s = .next t) (hs : s.HALT = true) :
    t.HALT = true := by
  obtain rfl := Host.Outcome.next.inj ((stepAt_of_halted p q hs).symm.trans h)
  simpa using hs

/-- A Running state that a STEP leaves Halted has fetched an `Fx0A` with no key down (R27, R170). -/
theorem stepAt_halts_only_by_ldVxK {p q : Nat} {s t : State} (h : stepAt p q s = .next t) (hs : s.HALT = false)
    (ht : t.HALT = true) : s.KEYS = 0 ∧ ∃ x, decodeWord s.fetched = .ok (.ldVxK x) := by
  rcases stepAt_cases p q s with ⟨hh, -⟩ | ⟨-, i, hd, hc⟩ | ⟨-, e, -, hc⟩
  · simp [hs] at hh
  · rcases exec_cases (hc.symm.trans h) with hkeep | ⟨x, rfl, hk, -⟩
    · simp [hkeep.halt, hs] at ht
    · exact ⟨by simpa using hk, x, hd⟩
  · obtain rfl := Host.Outcome.next.inj (hc.symm.trans h)
    simp [hs] at ht

/-- Settles O16: of the three things a STEP can do only an `Fx0A` with KEYS = 0 touches HALT, and nothing writes KEYS. -/
theorem onlyFx0AHaltsAndNoStepResumes : Obligations.OnlyFx0AHaltsAndNoStepResumes := by
  intro s t h
  refine ⟨stepAt_KEYS h, stepAt_keeps_halted h, fun ht => ?_⟩
  cases hs : s.HALT with
  | true => exact .inl rfl
  | false => exact .inr (stepAt_halts_only_by_ldVxK h hs ht)

/-- Settles O12: the two bytes at pc spell the fetched word. -/
theorem stepRunsTheDecodedInstruction : Obligations.StepRunsTheDecodedInstruction :=
  fun _ _ hrun hd => stepAt_of_decoded stepMsNum stepMsDen hrun (decode_pair_eq_ok_iff.mp hd)

/-- Settles O13: the frame of a Halted STEP is that of the timer update. -/
theorem haltedStepOnlyUpdatesTimers : Obligations.HaltedStepOnlyUpdatesTimers :=
  fun s p q h => ⟨s.timerUpdate p q, stepAt_of_halted p q h, rfl, unchanged_timerUpdate p q s⟩

theorem exec_ldVxDT (x : Nibble) (s : State) : exec (.ldVxDT x) s = .next (s.writeV x s.DT) := rfl
theorem exec_ldDTVx (x : Nibble) (s : State) : exec (.ldDTVx x) s = .next (s.setDT (s.readV x)) := rfl
theorem exec_ldSTVx (x : Nibble) (s : State) : exec (.ldSTVx x) s = .next (s.setST (s.readV x)) := rfl

/-- Settles O17: the instruction runs in the state after the timer update, whose V registers are those before it. -/
theorem timerUpdatePrecedesTheInstruction : Obligations.TimerUpdatePrecedesTheInstruction := by
  intro s x hrun
  refine ⟨fun hd => ?_, fun hd => ?_, fun hd => ?_⟩
  · exact ⟨_, (stepAt_of_decoded _ _ hrun hd).trans (exec_ldVxDT x _), by simp⟩
  · exact ⟨_, (stepAt_of_decoded _ _ hrun hd).trans (exec_ldDTVx x _), by simp⟩
  · exact ⟨_, (stepAt_of_decoded _ _ hrun hd).trans (exec_ldSTVx x _), by simp⟩

end Sys2Proof.Machine
end

section
/-! PROOFS: control flow (R100 to R108). A CALL pushes and a RET pops (`State.called`, `State.returned`, the slot is decision
D15); jumps and skips choose the pc. The frames are those of the access table (`exec_unchangedBut_mayWrite`). -/

namespace Sys2Proof.Machine

/-- A changed part that ends up as it was is no part of the frame. -/
theorem UnchangedBut.of_restored {s t : State} {a b : Part → Prop} (h : UnchangedBut b s t)
    (hba : ∀ p, b p → a p ∨ p.same s t) : UnchangedBut a s t := by
  intro p hp
  by_cases hb : b p
  · exact (hba p hb).resolve_left hp
  · exact h p hb

/-- An instruction's word under its row's mask is the row's pattern (R74). -/
theorem encode_and_mask (i : Instr) : encode i &&& i.row.mask = i.row.pat :=
  OpcodeRow.admits_iff.mp i.row_admits_encode

/-! ## CALL and RET (R102, R100) -/

@[simp] theorem State.called_pc (s : State) (c : Word × Addr12) : (s.called c).pc = addrOperand c.2 := rfl

@[simp] theorem State.returned_SP (s : State) : s.returned.SP = s.SP - 1 := rfl

theorem exec_call (nnn : Addr12) (s : State) : exec (.call nnn) s = .next (s.called (s.pc, nnn)) := rfl

theorem unchanged_called (nnn : Addr12) (s : State) :
    UnchangedBut (fun c => c = .pc ∨ c = .sp ∨ c = .stk s.SP) s (s.called (s.pc, nnn)) :=
  exec_unchangedBut_mayWrite (exec_call nnn s)

theorem unchanged_returned (s : State) : UnchangedBut (fun c => c = .pc ∨ c = .sp) s s.returned :=
  exec_unchangedBut_mayWrite (exec_ret s)

theorem State.returned_called_SP (s : State) (c : Word × Addr12) : (s.called c).returned.SP = s.SP :=
  BitVec.add_sub_cancel s.SP 1

/-- The slot that RET reads is the one that CALL filled. -/
theorem State.returned_called_pc (s : State) (c : Word × Addr12) : (s.called c).returned.pc = c.1 := by
  have hslot : (s.called c).SP - 1 = s.SP := s.returned_called_SP c
  rw [State.returned_pc, hslot, State.stackEntry_called, if_pos rfl]

/-- Settles O29: of what CALL and RET write, pc and SP are restored. -/
theorem callThenReturnRestoresPc : Obligations.CallThenReturnRestoresPc := by
  intro nnn s
  have hpc : (s.called (s.pc, nnn)).returned.pc = s.pc := s.returned_called_pc _
  have hsp : (s.called (s.pc, nnn)).returned.SP = s.SP := s.returned_called_SP _
  refine ⟨_, _, exec_call nnn s, exec_ret _, hpc, hsp, ?_⟩
  have hframe := (unchanged_called nnn s).trans
    ((unchanged_returned _).mono fun _ => Or.imp_right .inl)
  refine hframe.of_restored fun p hp => ?_
  rcases hp with rfl | rfl | hstk
  · exact .inr hpc
  · exact .inr hsp
  · exact .inl hstk

/-- Settles O27: SP counts modulo 16 because it has 4 bits. -/
theorem callPushesAndJumps : Obligations.CallPushesAndJumps := by
  intro nnn s
  refine ⟨_, exec_call nnn s, ?_, ?_, addrOperand_toNat nnn, unchanged_called nnn s⟩
  · rw [State.stackEntry_called, if_pos rfl]
  · rw [State.called_SP]; exact BitVec.toNat_add ..

/-- Settles O28: stepping SP back is adding 15 modulo 16. -/
theorem retPopsIntoPc : Obligations.RetPopsIntoPc := by
  intro s
  refine ⟨_, exec_ret s, ?_, s.returned_pc, unchanged_returned s⟩
  rw [State.returned_SP]; bv_omega

/-! ## Jumps (R101, R103) -/

/-- Settles O25: the word's class is its row's, and zero extension keeps the number nnn. -/
theorem jpLoadsPc : Obligations.JpLoadsPc :=
  fun nnn s => ⟨encode_and_mask (.jp nnn), s.setPc (addrOperand nnn), rfl, addrOperand_toNat nnn, unchanged_setPc s _⟩

/-- Settles O26: a 12-bit and an 8-bit number add up to less than 65536. -/
theorem jpV0AddsV0 : Obligations.JpV0AddsV0 := by
  intro nnn s
  refine ⟨s.setPc (addrOperand nnn + byteOperand (s.readV 0)), rfl, ?_, unchanged_setPc s _⟩
  have hn : nnn.toNat < 4096 := nnn.isLt
  have hv : (s.readV 0).toNat < 256 := (s.readV 0).isLt
  rw [State.setPc_pc, BitVec.toNat_add, addrOperand_toNat, byteOperand_toNat]
  omega

/-! ## Skips (R104 to R108) -/

@[simp] theorem State.skipIf_pc (c : Bool) (s : State) : (s.skipIf c).pc = if c then s.pc + 2 else s.pc := by
  rw [State.skipIf_eq]; rfl

/-- A STEP that fetches a legal word emits no event (R181). -/
theorem diagAt_of_decoded (p q : Nat) {s : State} {i : Instr} (hd : decodeWord s.fetched = .ok i) :
    diagAt p q s = none := by
  unfold diagAt
  rcases cycle_cases p q s with ⟨-, hc⟩ | ⟨-, j, -, hc⟩ | ⟨-, e, he, -⟩
  · rw [hc]
  · rw [hc]
  · simp [hd] at he

/-- Settles O31: each skip is `State.skipIf` of its comparison, and its word is legal. -/
theorem compareSkipsAdvancePc : Obligations.CompareSkipsAdvancePc := by
  intro x y kk s
  refine ⟨⟨s.skipIf (s.readV x == kk), rfl, by simp, unchanged_skipIf _ s⟩,
    ⟨s.skipIf (s.readV x != kk), rfl, by simp, unchanged_skipIf _ s⟩,
    ⟨s.skipIf (s.readV x == s.readV y), rfl, by simp, unchanged_skipIf _ s⟩,
    ⟨s.skipIf (s.readV x != s.readV y), rfl, by simp, unchanged_skipIf _ s⟩,
    encode_and_mask (.seImm x kk), encode_and_mask (.sneImm x kk), encode_and_mask (.seReg x y),
    encode_and_mask (.sneReg x y), fun p q i hd _ => diagAt_of_decoded p q hd⟩

end Sys2Proof.Machine
end

section
/-! PROOFS: load, arithmetic, logic, shift and random (R120 to R133). The five flag-writing instructions are one frame
(`State.flagOp_spec`, R126) around their functions of the operand values, whose result and flag are said as numbers first. -/

namespace Sys2Proof.Machine

/-! ## Results and flags as numbers (R127 to R131) -/

theorem aluAdd_result_toNat (a b : Byte) : (aluAdd a b).2.toNat = (a.toNat + b.toNat) % 256 := BitVec.toNat_add a b

theorem aluAdd_flag_toNat (a b : Byte) : (aluAdd a b).1.toNat = if a.toNat + b.toNat > 255 then 1 else 0 := by
  simp only [aluAdd, flagByte_toNat, decide_eq_true_eq]

theorem aluSub_result_toNat (a b : Byte) : (aluSub a b).2.toNat = (256 + a.toNat - b.toNat) % 256 := by
  have hb : b.toNat < 256 := b.isLt
  rw [aluSub, BitVec.toNat_sub]
  omega

theorem aluSub_flag_toNat (a b : Byte) : (aluSub a b).1.toNat = if a.toNat > b.toNat then 1 else 0 := by
  simp only [aluSub, flagByte_toNat, decide_eq_true_eq]

theorem aluSubn_result_toNat (a b : Byte) : (aluSubn a b).2.toNat = (256 + b.toNat - a.toNat) % 256 :=
  aluSub_result_toNat b a

theorem aluSubn_flag_toNat (a b : Byte) : (aluSubn a b).1.toNat = if b.toNat > a.toNat then 1 else 0 :=
  aluSub_flag_toNat b a

/-- A flag that takes bit `k` of a byte (R129, R131). -/
theorem flagByte_getLsbD_toNat (a : Byte) (k : Nat) : (flagByte (a.getLsbD k)).toNat = a.toNat / 2 ^ k % 2 := by
  rw [flagByte_toNat, ← Nat.toNat_testBit]
  exact (Bool.cond_eq_ite _ 1 0).symm

theorem aluShr_result_toNat (a b : Byte) : (aluShr a b).2.toNat = a.toNat / 2 := by
  rw [aluShr, BitVec.toNat_ushiftRight, Nat.shiftRight_eq_div_pow, pow_one]

theorem aluShr_flag_toNat (a b : Byte) : (aluShr a b).1.toNat = a.toNat % 2 := by
  rw [aluShr, flagByte_getLsbD_toNat, pow_zero, Nat.div_one]

theorem aluShl_result_toNat (a b : Byte) : (aluShl a b).2.toNat = a.toNat * 2 % 256 := by
  rw [aluShl, BitVec.toNat_shiftLeft, Nat.shiftLeft_eq, pow_one]

theorem aluShl_flag_toNat (a b : Byte) : (aluShl a b).1.toNat = a.toNat / 128 := by
  have ha : a.toNat < 256 := a.isLt
  rw [aluShl, flagByte_getLsbD_toNat]
  omega

/-! ## The frame of the flag-writing instructions (R126) -/

theorem State.readV_x_flagOp (f : Byte → Byte → Byte × Byte) (x y : Nibble) (s : State) :
    (s.flagOp .operandsFirst f x y).readV x = (f (s.readV x) (s.readV y)).2 := by
  rw [State.readV_flagOp, if_pos rfl]

/-- Vx receives the result and VF the flag, unless VF is the destination; nothing else changes. -/
theorem State.flagOp_spec {f : Byte → Byte → Byte × Byte} {x y : Nibble} {s : State} {result flag : Nat}
    (hresult : (f (s.readV x) (s.readV y)).2.toNat = result) (hflag : (f (s.readV x) (s.readV y)).1.toNat = flag) :
    ((s.flagOp .operandsFirst f x y).readV x).toNat = result ∧
      (x ≠ vf → ((s.flagOp .operandsFirst f x y).readV vf).toNat = flag) ∧
      UnchangedBut (fun c => c = .v x ∨ c = .v vf) s (s.flagOp .operandsFirst f x y) :=
  ⟨by rw [State.readV_x_flagOp, hresult], fun hx => by rw [readV_vf_flagOp f hx, hflag], unchanged_flagOp f x y s⟩

/-- Settles O35: both are the frame of R126; SUBN's result and flag are SUB's with the operands the other way round. -/
theorem subtractsSetStrictlyGreater : Obligations.SubtractsSetStrictlyGreater := by
  intro x y s
  refine ⟨⟨s.flagOp .operandsFirst aluSub x y, rfl, ?_⟩, ⟨s.flagOp .operandsFirst aluSubn x y, rfl, ?_⟩⟩
  · exact State.flagOp_spec (aluSub_result_toNat _ _) (aluSub_flag_toNat _ _)
  · exact State.flagOp_spec (aluSubn_result_toNat _ _) (aluSubn_flag_toNat _ _)

theorem exec_shr_ignores_y (x y z : Nibble) (s : State) : exec (.shr x y) s = exec (.shr x z) s := rfl
theorem exec_shl_ignores_y (x y z : Nibble) (s : State) : exec (.shl x y) s = exec (.shl x z) s := rfl

/-- Settles O36: the field y has no effect, and the flag is a bit of Vx in the frame of R126. -/
theorem shiftsSetTheBitShiftedOut : Obligations.ShiftsSetTheBitShiftedOut := by
  intro x y z s
  refine ⟨⟨s.flagOp .operandsFirst aluShr x y, rfl, exec_shr_ignores_y x z y s, ?_⟩,
    ⟨s.flagOp .operandsFirst aluShl x y, rfl, exec_shl_ignores_y x z y s, ?_⟩⟩
  · exact State.flagOp_spec (aluShr_result_toNat _ _) (aluShr_flag_toNat _ _)
  · exact State.flagOp_spec (aluShl_result_toNat _ _) (aluShl_flag_toNat _ _)

/-- Settles O34: the carry of the 9-bit sum, in the frame of R126. -/
theorem addSetsCarry : Obligations.AddSetsCarry := fun x y s =>
  ⟨s.flagOp .operandsFirst aluAdd x y, rfl, State.flagOp_spec (aluAdd_result_toNat _ _) (aluAdd_flag_toNat _ _)⟩

/-! ## The two orders of ALU_ALIAS_ORDER (R126, R152; log entry 10) -/

/-- The orders agree on a flag operation whose function does not notice the flag in its second operand. -/
theorem State.flagOp_order_irrelevant {f : Byte → Byte → Byte × Byte} {x y : Nibble} {s : State} (hx : x ≠ vf)
    (hf : ∀ flag, f (s.readV x) ((s.writeV vf flag).readV y) = f (s.readV x) (s.readV y)) :
    s.flagOp .operandsFirst f x y = s.flagOp .sequential f x y := by
  simp only [State.flagOp, State.readV_writeV_of_ne s _ hx, hf]

/-- The orders agree on a draw whose coordinates are not in VF (decision D6). -/
theorem State.drawSprite_order_irrelevant {x y : Nibble} (hx : x ≠ vf) (hy : y ≠ vf) (n : Nibble) (s : State) :
    s.drawSprite .operandsFirst x y n = s.drawSprite .sequential x y n := by
  simp only [State.drawSprite, State.coordinateSource, State.spriteColumn, State.spriteRow,
    State.readV_writeV_of_ne s _ hx, State.readV_writeV_of_ne s _ hy]

/-- Settles O38: the shifts do not read their second operand, and a Vy other than VF reads the same after the flag is
written. -/
theorem aliasOrdersAgreeOffVF : Obligations.AliasOrdersAgreeOffVF := by
  intro x y n s hx
  refine ⟨?_, fun hy => State.drawSprite_order_irrelevant hx hy n s⟩
  rintro f (rfl | rfl | hy)
  · exact State.flagOp_order_irrelevant hx fun _ => rfl
  · exact State.flagOp_order_irrelevant hx fun _ => rfl
  · exact State.flagOp_order_irrelevant hx fun flag => by rw [State.readV_writeV_of_ne s flag hy]

/-! ## Instructions that write Vx alone (R120 to R125) and RND (R132) -/

/-- Settles O32: both are one write of Vx, and the word's class is its row's. -/
theorem immediateLoadAndAdd : Obligations.ImmediateLoadAndAdd := by
  intro x kk s
  refine ⟨⟨s.writeV x kk, rfl, s.readV_writeV_same x kk, unchanged_writeV s x kk⟩,
    ⟨s.writeV x (s.readV x + kk), rfl, ?_, unchanged_writeV s x _⟩,
    encode_and_mask (.ldImm x kk), encode_and_mask (.addImm x kk)⟩
  rw [State.readV_writeV_same]
  exact BitVec.toNat_add (s.readV x) kk

/-- Settles O33: each is one write of Vx, of a bitwise function of the operands. -/
theorem copyAndLogicLeaveFlags : Obligations.CopyAndLogicLeaveFlags := by
  intro x y s
  refine ⟨⟨s.writeV x (s.readV y), rfl, ?_, unchanged_writeV s x _⟩,
    ⟨s.writeV x (s.readV x ||| s.readV y), rfl, fun k => ?_, unchanged_writeV s x _⟩,
    ⟨s.writeV x (s.readV x &&& s.readV y), rfl, fun k => ?_, unchanged_writeV s x _⟩,
    ⟨s.writeV x (s.readV x ^^^ s.readV y), rfl, fun k => ?_, unchanged_writeV s x _⟩⟩
  · exact State.readV_writeV_same ..
  · rw [State.readV_writeV_same, BitVec.getLsbD_or]
  · rw [State.readV_writeV_same, BitVec.getLsbD_and]
  · rw [State.readV_writeV_same, BitVec.getLsbD_xor]

/-- Settles O39: the draw is taken and its masked byte written to Vx; the frame is that of the access table. -/
theorem rndMasksAFreshDraw : Obligations.RndMasksAFreshDraw := by
  intro x kk s
  have hread : (s.tookDraw.writeV x (s.nextDraw &&& kk)).readV x = s.nextDraw &&& kk := State.readV_writeV_same ..
  have hmask : s.nextDraw &&& kk &&& ~~~kk = 0 := by
    rw [BitVec.and_assoc, BitVec.and_not_self]
    exact BitVec.and_zero
  exact ⟨_, rfl, hread, hread.symm ▸ hmask, rfl, exec_unchangedBut_mayWrite (i := .rnd x kk) rfl⟩

end Sys2Proof.Machine
end

section
/-! PROOFS: index register and memory transfer (R140 to R146). The transfers store and load at `I + k`; a store there is read
back at that index alone (`Memory.read_write_indexed`), because one instruction's addresses select different cells. -/

namespace Sys2Proof.Machine

/-! ## Index arithmetic (R140 to R142) -/

/-- Settles O40: zero extension keeps the number nnn, and the word's class is its row's. -/
theorem ldILoadsTheAddress : Obligations.LdILoadsTheAddress :=
  fun nnn s => ⟨encode_and_mask (.ldI nnn), s.setI (addrOperand nnn), rfl, addrOperand_toNat nnn, unchanged_setI s _⟩

/-- Five times a byte fits in 16 bits (R142). -/
theorem five_mul_byteOperand_toNat (b : Byte) : (5 * byteOperand b).toNat = 5 * b.toNat := by
  have hb : b.toNat < 256 := b.isLt
  rw [BitVec.toNat_mul, byteOperand_toNat]
  exact Nat.mod_eq_of_lt (by omega : 5 * b.toNat < 65536)

/-- Settles O41: both are one write of I. -/
theorem indexArithmetic : Obligations.IndexArithmetic := by
  intro x s
  refine ⟨⟨s.setI (s.I + byteOperand (s.readV x)), rfl, ?_, unchanged_setI s _⟩,
    ⟨s.setI (5 * byteOperand (s.readV x)), rfl, five_mul_byteOperand_toNat _, unchanged_setI s _⟩⟩
  rw [State.setI_I, BitVec.toNat_add, byteOperand_toNat]

/-! ## Decimal digits (R143) -/

/-- A store at `I + k`, read back at `I + j` (R146). -/
theorem Memory.read_write_indexed (m : Memory) (s : State) {j k : Nat} (hj : j < 4096) (hk : k < 4096) (v : Byte) :
    Memory.read (Memory.write m (cellOf (s.indexed k)) v) (cellOf (s.indexed j)) =
      if j = k then v else Memory.read m (cellOf (s.indexed j)) := by
  rw [Memory.read_write]
  by_cases h : j = k
  · rw [h, if_pos rfl, if_pos rfl]
  · rw [if_neg h, if_neg fun e => h (cellOf_indexed_inj s hj hk e)]

/-- The state that `Fx33` answers. -/
def State.bcdStored (x : Nibble) (s : State) : State :=
  ((s.memWrite (s.indexed 0) (BitVec.ofNat 8 ((s.readV x).toNat / 100))).memWrite (s.indexed 1)
    (BitVec.ofNat 8 ((s.readV x).toNat / 10 % 10))).memWrite (s.indexed 2) (BitVec.ofNat 8 ((s.readV x).toNat % 10))

theorem exec_ldB (x : Nibble) (s : State) : exec (.ldB x) s = .next (s.bcdStored x) := rfl

section
variable (x : Nibble) (s : State)

theorem State.read_bcdStored_hundreds :
    Memory.read (s.bcdStored x).MEM (cellOf (s.indexed 0)) = BitVec.ofNat 8 ((s.readV x).toNat / 100) := by
  simp [State.bcdStored, Memory.read_write_indexed]

theorem State.read_bcdStored_tens :
    Memory.read (s.bcdStored x).MEM (cellOf (s.indexed 1)) = BitVec.ofNat 8 ((s.readV x).toNat / 10 % 10) := by
  simp [State.bcdStored, Memory.read_write_indexed]

theorem State.read_bcdStored_ones :
    Memory.read (s.bcdStored x).MEM (cellOf (s.indexed 2)) = BitVec.ofNat 8 ((s.readV x).toNat % 10) :=
  Memory.read_write_same ..

end

/-- Settles O42: the three bytes stored are quotients and remainders of Vx, which is at most 255. -/
theorem bcdStoresThreeDigits : Obligations.BcdStoresThreeDigits := by
  intro x s
  refine ⟨_, exec_ldB x s, ?_, exec_unchangedBut_mayWrite (exec_ldB x s)⟩
  have hv : (s.readV x).toNat < 256 := (s.readV x).isLt
  simp only [State.read_bcdStored_hundreds, State.read_bcdStored_tens, State.read_bcdStored_ones, BitVec.toNat_ofNat]
  omega

/-! ## Register transfer (R144, R145) -/

theorem State.bumpI_I_toNat (x : Nibble) (s : State) :
    (s.bumpI x).I.toNat = (s.I.toNat + x.toNat + 1) % 65536 := by
  rw [State.bumpI, State.setI_I, State.indexed, BitVec.toNat_add, BitVec.toNat_ofNat]
  omega

/-- An effective address depends on I alone (R146). -/
theorem State.indexed_congr {s t : State} (h : t.I = s.I) (k : Nat) : t.indexed k = s.indexed k := by
  rw [State.indexed, State.indexed, h]

/-- The state that `Fx55` answers. -/
def State.stored (x : Nibble) (s : State) : State := (State.storeFirst (x.toNat + 1) s).bumpI x

/-- The state that `Fx65` answers. -/
def State.loaded (x : Nibble) (s : State) : State := (State.loadFirst (x.toNat + 1) s).bumpI x

theorem exec_storeRegs (x : Nibble) (s : State) : exec (.storeRegs x) s = .next (s.stored x) := rfl
theorem exec_loadRegs (x : Nibble) (s : State) : exec (.loadRegs x) s = .next (s.loaded x) := rfl

section
variable (x : Nibble) (s : State)

theorem State.stored_I_toNat : (s.stored x).I.toNat = (s.I.toNat + x.toNat + 1) % 65536 := by
  rw [State.stored, State.bumpI_I_toNat, State.storeFirst_I]

theorem State.loaded_I_toNat : (s.loaded x).I.toNat = (s.I.toNat + x.toNat + 1) % 65536 := by
  rw [State.loaded, State.bumpI_I_toNat, State.loadFirst_I]

variable {x} {j : Nibble} (hj : j ≤ x)
include hj

theorem State.read_stored : Memory.read (s.stored x).MEM (cellOf (s.indexed j.toNat)) = s.readV j := by
  have h := State.read_storeFirst_same (x.toNat + 1) x.isLt s j.toNat (Nat.lt_succ_of_le hj)
  rwa [BitVec.ofNat_toNat, BitVec.setWidth_eq] at h

theorem State.readV_loaded : (s.loaded x).readV j = Memory.read s.MEM (cellOf (s.indexed j.toNat)) := by
  have h := State.readV_loadFirst (x.toNat + 1) x.isLt s j
  rwa [if_pos (Nat.lt_succ_of_le hj)] at h

end

/-- Settles O43: the frame is that of the access table. -/
theorem storeRegistersToMemory : Obligations.StoreRegistersToMemory := fun x s =>
  ⟨s.stored x, exec_storeRegs x s, fun _ hj => s.read_stored hj, s.stored_I_toNat x,
    exec_unchangedBut_mayWrite (exec_storeRegs x s)⟩

/-- Settles O44: the frame is that of the access table. -/
theorem loadRegistersFromMemory : Obligations.LoadRegistersFromMemory := fun x s =>
  ⟨s.loaded x, exec_loadRegs x s, fun _ hj => s.readV_loaded hj, s.loaded_I_toNat x,
    exec_unchangedBut_mayWrite (exec_loadRegs x s)⟩

/-- Settles O45: the load addresses the cells of the store, because both start from the same I. -/
theorem storedRegistersAreRestored : Obligations.StoredRegistersAreRestored := by
  intro x s u
  refine ⟨s.stored x, exec_storeRegs x s, fun hmem hI => ⟨u.loaded x, exec_loadRegs x u, fun j hj => ?_⟩⟩
  calc (u.loaded x).readV j
      = Memory.read u.MEM (cellOf (u.indexed j.toNat)) := u.readV_loaded hj
    _ = Memory.read (s.stored x).MEM (cellOf (s.indexed j.toNat)) := by rw [hmem, State.indexed_congr hI]
    _ = s.readV j := s.read_stored hj

end Sys2Proof.Machine
end

section
/-! PROOFS: the display (R150 to R156). A draw XORs each sprite row's word once into its own display row (R153 c); what it
does to a pixel, to VF, and when it is repeated is read off those words (`State.spriteRowWord`). -/

namespace Sys2Proof.Machine

/-! ## FRAME and CLS (R151, R155, R156) -/

theorem State.length_frameWith (on off : Pixel) (s : State) : (s.frameWith on off).length = 2048 := by
  rw [State.frameWith, List.length_map, List.length_range]

/-- The frame is row-major (decision D13). -/
theorem State.getElem?_frameWith (on off : Pixel) (s : State) (r : Fin 32) {c : Nat} (hc : c < 64) :
    (s.frameWith on off)[64 * r.val + c]? = some (if s.pixel r c then on else off) := by
  have hlt : 64 * r.val + c < 2048 := by omega
  have hrow : Fin.ofNat 32 ((64 * r.val + c) / 64) = r := Fin.ext (by simp only [Fin.ofNat]; omega)
  have hcol : (64 * r.val + c) % 64 = c := by omega
  rw [State.frameWith, List.getElem?_map, List.getElem?_range hlt, Option.map_some, hrow, hcol]

theorem State.frameWith_of_blank {s : State} (h : ∀ r c, s.pixel r c = false) (on off : Pixel) :
    s.frameWith on off = List.replicate 2048 off := by
  simp [State.frameWith, h]

theorem State.pixel_clearRows (s : State) (r : Fin 32) (c : Nat) : s.clearRows.pixel r c = false := by
  rw [State.pixel, State.row_clearRows]; exact BitVec.getLsbD_zero

theorem exec_cls (s : State) : exec .cls s = .next s.clearRows := rfl

/-- Settles O49: FRAME is `State.frame`, whose on pattern is white. -/
theorem frameIsRowMajorAndPure : Obligations.FrameIsRowMajorAndPure :=
  fun s on off => ⟨s.length_frameWith on off, fun r _ hc => s.getElem?_frameWith on off r hc, rfl, rfl⟩

/-- Settles O46: CLS leaves no pixel set. -/
theorem clsBlanksTheDisplay : Obligations.ClsBlanksTheDisplay := fun s =>
  ⟨rfl, s.clearRows, exec_cls s, s.row_clearRows, unchanged_clearRows s, State.frameWith_of_blank s.pixel_clearRows⟩

/-! ## Row words (R152) -/

/-- Bits counted from the left, as columns and sprite bits are (R29). -/
theorem ne_zero_iff_exists_bit {w : Nat} (v : BitVec w) : v ≠ 0 ↔ ∃ c, c < w ∧ v.getLsbD (w - 1 - c) = true := by
  constructor
  · intro h
    obtain ⟨i, hi⟩ := not_forall.mp (mt BitVec.zero_iff_eq_false.mpr h)
    have hi : v.getLsbD i = true := by simpa using hi
    have hlt : i < w := BitVec.lt_of_getLsbD hi
    exact ⟨w - 1 - i, by omega, by rwa [show w - 1 - (w - 1 - i) = i by omega]⟩
  · rintro ⟨c, -, hb⟩ rfl
    simp at hb

/-- Placing a sprite byte on a row loses none of its bits. -/
theorem spriteWord_ne_zero_iff (b : Byte) {cx : Nat} (hcx : cx < 64) : spriteWord b cx ≠ 0 ↔ b ≠ 0 := by
  rw [ne_zero_iff_exists_bit, ne_zero_iff_exists_bit]
  constructor
  · rintro ⟨c, hc, hbit⟩
    obtain ⟨j, hj, -, hb⟩ := (spriteWord_bit b hcx hc).mp hbit
    exact ⟨j, hj, hb⟩
  · rintro ⟨j, hj, hb⟩
    have hc : (cx + j) % 64 < 64 := Nat.mod_lt _ (by decide)
    exact ⟨_, hc, (spriteWord_bit b hcx hc).mpr ⟨j, hj, rfl, hb⟩⟩

/-- A word that hits no set bit is found again in full after it is XORed in. -/
theorem and_xor_self_of_and_eq_zero {w : Nat} {a b : BitVec w} (h : a &&& b = 0) : a &&& (b ^^^ a) = a := by
  refine BitVec.eq_of_getLsbD_eq fun i _ => ?_
  have hi : (a &&& b).getLsbD i = false := by rw [h]; exact BitVec.getLsbD_zero
  rw [BitVec.getLsbD_and] at hi
  rw [BitVec.getLsbD_and, BitVec.getLsbD_xor]
  cases ha : a.getLsbD i <;> simp_all

theorem State.spriteColumn_lt (x : Nibble) (s : State) : s.spriteColumn x < 64 := Nat.mod_lt _ (by decide)

theorem nibble_le_32 (n : Nibble) : n.toNat ≤ 32 := by have := n.isLt; omega

/-- The word that `Dxyn` XORs in for sprite row `k`: the byte at `I + k`, at column Vx. -/
def State.spriteRowWord (x : Nibble) (k : Nat) (s : State) : Row64 :=
  spriteWord (s.memRead (s.indexed k)) (s.spriteColumn x)

/-- The display row that sprite row `k` of `Dxyn` lands on. -/
def State.spriteRowTarget (y : Nibble) (k : Nat) (s : State) : Fin 32 := spriteTarget (s.spriteRow y) k

/-- Some row of the sprite of `Dxyn` meets a set bit of the display. -/
def State.collides (x y n : Nibble) (s : State) : Prop :=
  ∃ k < n.toNat, s.spriteRowWord x k &&& s.row (s.spriteRowTarget y k) ≠ 0

/-! ## The state after a draw (R152) -/

section
variable (x y n : Nibble) (s : State)

theorem exec_drw : exec (.drw x y n) s = .next (s.drawSprite .operandsFirst x y n) := rfl

theorem State.row_drawSprite_target {k : Nat} (hk : k < n.toNat) :
    (s.drawSprite .operandsFirst x y n).row (s.spriteRowTarget y k) =
      s.row (s.spriteRowTarget y k) ^^^ s.spriteRowWord x k :=
  State.row_drawFirst_same _ _ _ (nibble_le_32 n) (s.writeV vf 0) k hk

theorem State.row_drawSprite_other {r : Fin 32} (h : ∀ k < n.toNat, r ≠ s.spriteRowTarget y k) :
    (s.drawSprite .operandsFirst x y n).row r = s.row r :=
  State.row_drawFirst_other _ _ _ (s.writeV vf 0) r h

theorem State.readV_vf_drawSprite_of_collides (h : s.collides x y n) :
    (s.drawSprite .operandsFirst x y n).readV vf = 1 := by
  rw [State.drawSprite, State.readV_drawFirst _ _ _ (nibble_le_32 n)]
  exact if_pos ⟨rfl, h⟩

theorem State.readV_vf_drawSprite_of_not_collides (h : ¬ s.collides x y n) :
    (s.drawSprite .operandsFirst x y n).readV vf = 0 := by
  rw [State.drawSprite, State.readV_drawFirst _ _ _ (nibble_le_32 n)]
  exact (if_neg fun hc => h hc.2).trans (s.readV_writeV_same vf 0)

theorem State.readV_vf_drawSprite_eq_one_iff :
    (s.drawSprite .operandsFirst x y n).readV vf = 1 ↔ s.collides x y n := by
  refine ⟨fun h => ?_, s.readV_vf_drawSprite_of_collides x y n⟩
  by_contra hc
  rw [s.readV_vf_drawSprite_of_not_collides x y n hc] at h
  exact absurd h (by decide)

end

/-! ## Pixel by pixel (R152 reading a, R153) -/

section
variable {x y n : Nibble} {s : State} {r : Fin 32} {c : Nat} (hc : c < 64)
include hc

/-- The lit pixels of a sprite are the set bits of its row words. -/
theorem State.spriteLit_iff_row_bit :
    s.spriteLit (s.spriteColumn x) (s.spriteRow y) n.toNat r c ↔
      ∃ k < n.toNat, r = s.spriteRowTarget y k ∧ (s.spriteRowWord x k).getLsbD (63 - c) = true := by
  constructor
  · rintro ⟨k, j, hk, hj, hr, hcol, hb⟩
    exact ⟨k, hk, Fin.ext hr, (spriteWord_bit _ (s.spriteColumn_lt x) hc).mpr ⟨j, hj, hcol, hb⟩⟩
  · rintro ⟨k, hk, hr, hbit⟩
    obtain ⟨j, hj, hcol, hb⟩ := (spriteWord_bit _ (s.spriteColumn_lt x) hc).mp hbit
    exact ⟨k, j, hk, hj, congrArg Fin.val hr, hcol, hb⟩

theorem State.pixel_drawSprite_of_lit (h : s.spriteLit (s.spriteColumn x) (s.spriteRow y) n.toNat r c) :
    (s.drawSprite .operandsFirst x y n).pixel r c = !s.pixel r c := by
  obtain ⟨k, hk, rfl, hbit⟩ := (State.spriteLit_iff_row_bit hc).mp h
  rw [State.pixel, s.row_drawSprite_target x y n hk, BitVec.getLsbD_xor, hbit, Bool.xor_true, State.pixel]

theorem State.pixel_drawSprite_of_not_lit (h : ¬ s.spriteLit (s.spriteColumn x) (s.spriteRow y) n.toNat r c) :
    (s.drawSprite .operandsFirst x y n).pixel r c = s.pixel r c := by
  by_cases hr : ∃ k < n.toNat, r = s.spriteRowTarget y k
  · obtain ⟨k, hk, rfl⟩ := hr
    have hbit : (s.spriteRowWord x k).getLsbD (63 - c) = false :=
      Bool.eq_false_iff.mpr fun hb => h ((State.spriteLit_iff_row_bit hc).mpr ⟨k, hk, rfl, hb⟩)
    rw [State.pixel, s.row_drawSprite_target x y n hk, BitVec.getLsbD_xor, hbit, Bool.xor_false, State.pixel]
  · rw [State.pixel, s.row_drawSprite_other x y n fun k hk e => hr ⟨k, hk, e⟩, State.pixel]

end

/-- A draw collides exactly when a lit pixel of the sprite meets a lit pixel of the display. -/
theorem State.collides_iff_exists_pixel (x y n : Nibble) (s : State) :
    s.collides x y n ↔
      ∃ r c, c < 64 ∧ s.pixel r c = true ∧ s.spriteLit (s.spriteColumn x) (s.spriteRow y) n.toNat r c := by
  constructor
  · rintro ⟨k, hk, hne⟩
    obtain ⟨c, hc, hbit⟩ := (ne_zero_iff_exists_bit _).mp hne
    obtain ⟨hword, hpixel⟩ := Bool.and_eq_true_iff.mp (BitVec.getLsbD_and.symm.trans hbit)
    exact ⟨_, c, hc, hpixel, (State.spriteLit_iff_row_bit hc).mpr ⟨k, hk, rfl, hword⟩⟩
  · rintro ⟨r, c, hc, hpixel, hlit⟩
    obtain ⟨k, hk, rfl, hword⟩ := (State.spriteLit_iff_row_bit hc).mp hlit
    refine ⟨k, hk, (ne_zero_iff_exists_bit _).mpr ⟨c, hc, ?_⟩⟩
    exact BitVec.getLsbD_and.trans (Bool.and_eq_true_iff.mpr ⟨hword, hpixel⟩)

/-- Settles O47: a lit pixel is toggled and any other kept, and VF is set by a collision, pixel by pixel. -/
theorem drawTogglesSpritePixels : Obligations.DrawTogglesSpritePixels := by
  intro x y n s lit
  refine ⟨_, exec_drw x y n s, fun r c hc => ?_, fun h => ?_, fun h => ?_, unchanged_drawSprite x y n s⟩
  · by_cases hlit : lit r c
    · rw [State.pixel_drawSprite_of_lit hc hlit]; simp [hlit]
    · rw [State.pixel_drawSprite_of_not_lit hc hlit]; simp [hlit]
  · exact s.readV_vf_drawSprite_of_collides x y n ((s.collides_iff_exists_pixel x y n).mpr h)
  · refine s.readV_vf_drawSprite_of_not_collides x y n fun hcol => ?_
    obtain ⟨r, c, hc, hpixel, hlit⟩ := (s.collides_iff_exists_pixel x y n).mp hcol
    exact h r c hc hpixel hlit

/-! ## Drawing twice (R153 f) -/

theorem State.readV_drawSprite_of_ne {j : Nibble} (hj : j ≠ vf) (x y n : Nibble) (s : State) :
    (s.drawSprite .operandsFirst x y n).readV j = s.readV j :=
  unchanged_drawSprite x y n s (.v j) fun h => h.elim (fun e => hj (Part.v.inj e)) fun ⟨_, _, e⟩ => nomatch e

section
variable {x y : Nibble} (n : Nibble) (s : State)

/-- A draw moves neither I nor the sprite, so with Vx kept the next draw has the same row words. -/
theorem State.spriteRowWord_drawSprite (hx : x ≠ vf) (k : Nat) :
    (s.drawSprite .operandsFirst x y n).spriteRowWord x k = s.spriteRowWord x k := by
  have hcolumn : (s.drawSprite .operandsFirst x y n).spriteColumn x = s.spriteColumn x := by
    rw [State.spriteColumn, State.readV_drawSprite_of_ne hx, State.spriteColumn]
  have hbyte : (s.drawSprite .operandsFirst x y n).memRead ((s.drawSprite .operandsFirst x y n).indexed k) =
      s.memRead (s.indexed k) := by
    simp [State.drawSprite]
  rw [State.spriteRowWord, hcolumn, hbyte, State.spriteRowWord]

theorem State.spriteRowTarget_drawSprite (hy : y ≠ vf) (k : Nat) :
    (s.drawSprite .operandsFirst x y n).spriteRowTarget y k = s.spriteRowTarget y k := by
  rw [State.spriteRowTarget, State.spriteRow, State.readV_drawSprite_of_ne hy]; rfl

variable (hx : x ≠ vf) (hy : y ≠ vf)
include hx hy

/-- The second draw XORs each row's word in once more. -/
theorem State.row_drawSprite_drawSprite (r : Fin 32) :
    ((s.drawSprite .operandsFirst x y n).drawSprite .operandsFirst x y n).row r = s.row r := by
  have htarget := s.spriteRowTarget_drawSprite (x := x) n hy
  by_cases hr : ∃ k < n.toNat, r = s.spriteRowTarget y k
  · obtain ⟨k, hk, rfl⟩ := hr
    have hsecond := (s.drawSprite .operandsFirst x y n).row_drawSprite_target x y n hk
    rw [htarget, s.spriteRowWord_drawSprite n hx, s.row_drawSprite_target x y n hk] at hsecond
    rw [hsecond, BitVec.xor_assoc, BitVec.xor_self, BitVec.xor_zero]
  · have hother : ∀ k < n.toNat, r ≠ s.spriteRowTarget y k := fun k hk e => hr ⟨k, hk, e⟩
    rw [State.row_drawSprite_other x y n _ fun k hk => htarget k ▸ hother k hk, s.row_drawSprite_other x y n hother]

/-- After a draw that hit nothing, the display holds every bit of the sprite: a second draw hits them all. -/
theorem State.collides_drawSprite_of_not_collides (h : ¬ s.collides x y n) :
    (s.drawSprite .operandsFirst x y n).collides x y n ↔ ∃ k, k < n.toNat ∧ s.memRead (s.indexed k) ≠ 0 := by
  refine exists_congr fun k => and_congr_right fun hk => ?_
  have hmiss : s.spriteRowWord x k &&& s.row (s.spriteRowTarget y k) = 0 := by
    by_contra hne
    exact h ⟨k, hk, hne⟩
  rw [s.spriteRowWord_drawSprite n hx, s.spriteRowTarget_drawSprite n hy, s.row_drawSprite_target x y n hk,
    and_xor_self_of_and_eq_zero hmiss]
  exact spriteWord_ne_zero_iff _ (s.spriteColumn_lt x)

end

/-- Settles O48: the two XORs cancel, and what the second draw meets is what the first one drew. -/
theorem drawTwiceRestoresTheDisplay : Obligations.DrawTwiceRestoresTheDisplay := by
  intro x y n s hx hy
  refine ⟨_, _, exec_drw x y n s, exec_drw x y n _, s.row_drawSprite_drawSprite n hx hy, fun hvf => ?_⟩
  have hmiss : ¬ s.collides x y n := by
    intro hcol
    rw [s.readV_vf_drawSprite_of_collides x y n hcol] at hvf
    exact absurd hvf (by decide)
  rw [State.readV_vf_drawSprite_eq_one_iff, s.collides_drawSprite_of_not_collides n hx hy hmiss]

end Sys2Proof.Machine
end

section
/-! PROOFS: keys and timer registers (R165 to R173). A wait of `Fx0A` leaves `pc - 2` at the instruction, whose register field
KEYS reads again (`State.pendingX`, R172 b): the frame of a Halted run says that both are still what they were. -/

namespace Sys2Proof.Machine

/-- Settles O58: the timer update keeps the envelope, and only an `Fx0A` with an empty latch halts. -/
theorem stepKeepsTheInvariant : Obligations.StepKeepsTheInvariant := fun _ _ _ _ hpq => State.Sound.stepAt hpq

/-! ## Skips and timer moves (R166 to R169, R171) -/

theorem State.skipIf_not_pc (c : Bool) (s : State) : (s.skipIf (!c)).pc = if c then s.pc else s.pc + 2 := by
  cases c <;> rfl

/-- Settles O50: both are a skip on the latch bit, `ExA1` on its negation. -/
theorem keySkipsTestTheLatch : Obligations.KeySkipsTestTheLatch := fun x s =>
  ⟨⟨s.skipIf (s.keyDown (s.keyNumber x)), rfl, s.skipIf_pc _, unchanged_skipIf _ s⟩,
    ⟨s.skipIf (!s.keyDown (s.keyNumber x)), rfl, s.skipIf_not_pc _, unchanged_skipIf _ s⟩⟩

/-- SOUND_ON is the level of a nonzero sound timer (R5). -/
theorem State.soundOn_iff (s : State) : s.soundOn = true ↔ s.ST ≠ 0 := bne_iff_ne

/-- Settles O51: each is one write, of Vx, DT or ST. -/
theorem timerRegisterMoves : Obligations.TimerRegisterMoves := fun x s =>
  ⟨⟨_, exec_ldVxDT x s, s.readV_writeV_same x _, unchanged_writeV s x _⟩,
    ⟨_, exec_ldDTVx x s, s.setDT_DT _, unchanged_setDT s _⟩,
    ⟨_, exec_ldSTVx x s, s.setST_ST _, State.soundOn_iff _, unchanged_setST s _⟩⟩

/-! ## `Fx0A` (R170) -/

theorem exec_ldVxK_of_key (x : Nibble) {s : State} (h : s.KEYS ≠ 0) :
    exec (.ldVxK x) s = .next (s.writeV x (lowestSet s.KEYS)) :=
  congrArg Host.Outcome.next (if_pos h)

theorem exec_ldVxK_of_no_key (x : Nibble) {s : State} (h : s.KEYS = 0) :
    exec (.ldVxK x) s = .next (s.setHalt true) :=
  congrArg Host.Outcome.next (if_neg (not_not.mpr h))

/-- Settles O52: the key read is the lowest set bit of the latch (`lowestSet_spec`). -/
theorem waitForKeyReadsOrHalts : Obligations.WaitForKeyReadsOrHalts := by
  intro x s
  constructor
  · intro hkeys
    obtain ⟨hlt, hset, hleast⟩ := lowestSet_spec hkeys
    exact ⟨_, _, exec_ldVxK_of_key x hkeys, hlt, congrArg BitVec.toNat (s.readV_writeV_same x _), hset, hleast,
      unchanged_writeV s x _⟩
  · intro hnone
    exact ⟨_, exec_ldVxK_of_no_key x hnone, s.setHalt_HALT true, unchanged_setHalt s true⟩

/-! ## KEYS (R172) -/

theorem State.pendingX_toNat (s : State) : s.pendingX.toNat = (s.memRead (s.pc - 2)).toNat % 16 := by
  rw [State.pendingX, BitVec.extractLsb'_toNat, Nat.shiftRight_zero]

/-- The state in which KEYS(mask) resolves a wait. -/
def State.resolved (mask : Word) (s : State) : State :=
  ((s.setKeys mask).writeV s.pendingX (lowestSet mask)).setHalt false

theorem State.updateKeys_of_waiting {mask : Word} {s : State} (hhalt : s.HALT = true) (hm : mask ≠ 0) :
    s.updateKeys mask = s.resolved mask :=
  if_pos ⟨hhalt, hm⟩

theorem State.updateKeys_of_not_resolving {mask : Word} {s : State} (h : s.HALT = false ∨ mask = 0) :
    s.updateKeys mask = s.setKeys mask := by
  refine if_neg fun ⟨hhalt, hm⟩ => ?_
  rcases h with hrun | hzero
  · simp [hrun] at hhalt
  · exact hm hzero

section
variable (mask : Word) (s : State)

/-- KEYS replaces the latch, Halted or not (decision D17). -/
@[simp] theorem State.updateKeys_KEYS : (s.updateKeys mask).KEYS = mask := by
  rcases s.updateKeys_cases mask with ⟨x, v, hu⟩ | ⟨-, hu⟩ <;> rw [hu] <;> rfl

@[simp] theorem State.resolved_HALT : (s.resolved mask).HALT = false := rfl
@[simp] theorem State.resolved_pc : (s.resolved mask).pc = s.pc := rfl
@[simp] theorem State.resolved_KEYS : (s.resolved mask).KEYS = mask := rfl

theorem State.readV_pendingX_resolved : (s.resolved mask).readV s.pendingX = lowestSet mask :=
  State.readV_writeV_same ..

theorem unchanged_resolved :
    UnchangedBut (fun c => c = .keys ∨ c = .halt ∨ c = .v s.pendingX) s (s.resolved mask) :=
  (((unchanged_setKeys s mask).mono fun _ => .inl).trans
    ((unchanged_writeV _ _ _).mono fun _ h => .inr (.inr h))).trans
    ((unchanged_setHalt _ false).mono fun _ h => .inr (.inl h))

end

/-- Settles O53: KEYS resolves a wait or replaces the latch alone. -/
theorem keysReplacesTheLatchAndResolves : Obligations.KeysReplacesTheLatchAndResolves := by
  intro mask s
  refine ⟨s.updateKeys mask, rfl, s.updateKeys_KEYS mask, fun h => ?_, fun hhalt hm => ?_⟩
  · rw [State.updateKeys_of_not_resolving h]
    exact unchanged_setKeys s mask
  · obtain ⟨hlt, hset, hleast⟩ := lowestSet_spec hm
    rw [State.updateKeys_of_waiting hhalt hm]
    exact ⟨s.pendingX, _, s.pendingX_toNat, s.resolved_HALT mask, hlt,
      congrArg BitVec.toNat (s.readV_pendingX_resolved mask), hset, hleast, unchanged_resolved mask s⟩

/-! ## The wait from end to end (R170, R173, R172) -/

/-- A Halted core completes any number of steps, which change only the timers and ACC (R96, R185). -/
theorem steps_of_halted (k : Nat) {s : State} (h : s.HALT = true) :
    ∃ t, Steps k s t ∧ UnchangedBut (fun c => c = .acc ∨ c = .dt ∨ c = .st) s t := by
  induction k generalizing s with
  | zero => exact ⟨s, rfl, UnchangedBut.refl s⟩
  | succ k ih =>
    have hu : (s.timerUpdate stepMsNum stepMsDen).HALT = true := by rw [State.timerUpdate_HALT, h]
    obtain ⟨t, hsteps, hframe⟩ := ih hu
    exact ⟨t, ⟨_, stepAt_of_halted _ _ h, hsteps⟩, (unchanged_timerUpdate _ _ s).trans hframe⟩

/-- The register field of an instruction word lies in the low nibble of its first byte (R51, R71). -/
theorem fieldX_wordOfBytes (hi lo : Byte) : fieldX (wordOfBytes hi lo) = hi.extractLsb' 0 4 := by
  ext i hlt
  rw [fieldX, BitVec.getElem_extractLsb', BitVec.getElem_extractLsb', wordOfBytes, getLsbD_bytes, if_neg (by omega)]
  congr 1
  omega

theorem fieldX_of_decode_ldVxK {w : Word} {x : Nibble} (h : decodeWord w = .ok (.ldVxK x)) : fieldX w = x := by
  rw [← encode_of_decodeWord h]
  exact fieldX_formatXKK ..

/-- The register that KEYS reads again is that of the `Fx0A` still in MEM at `pc - 2` (R172 b). -/
theorem State.pendingX_eq_of_decode {s : State} {x : Nibble} (h : decodeWord (s.memRead2 (s.pc - 2)) = .ok (.ldVxK x)) :
    s.pendingX = x := by
  rw [← fieldX_of_decode_ldVxK h, State.memRead2, fieldX_wordOfBytes]
  rfl

/-- A frame without memory cells keeps every word of MEM. -/
theorem UnchangedBut.memRead2_eq {s t : State} {a : Part → Prop} (h : UnchangedBut a s t)
    (hcell : ∀ n, ¬ a (.cell n)) (addr : Word) : t.memRead2 addr = s.memRead2 addr := by
  have hread : ∀ b, t.memRead b = s.memRead b := fun b => h (.cell (cellOf b)) (hcell _)
  rw [State.memRead2, State.memRead2, hread, hread]

/-- The state in which a STEP leaves a core that it halts (R170). -/
def State.halting (s : State) : State := (s.timerUpdate stepMsNum stepMsDen).advancePc.setHalt true

theorem step_eq_halting {s : State} {x : Nibble} (hrun : s.HALT = false) (hkeys : s.KEYS = 0)
    (hd : decodeWord s.fetched = .ok (.ldVxK x)) : step s = .next s.halting := by
  have hlatch : (s.timerUpdate stepMsNum stepMsDen).advancePc.KEYS = 0 := by simpa using hkeys
  exact (stepAt_of_decoded _ _ hrun hd).trans (exec_ldVxK_of_no_key x hlatch)

theorem unchanged_halting (s : State) :
    UnchangedBut (fun c => c = .halt ∨ c = .pc ∨ c = .acc ∨ c = .dt ∨ c = .st) s s.halting :=
  (((unchanged_timerUpdate _ _ s).mono fun _ h => .inr (.inr h)).trans
    ((unchanged_advancePc _).mono fun _ h => .inr (.inl h))).trans ((unchanged_setHalt _ true).mono fun _ => .inl)

@[simp] theorem State.halting_pc (s : State) : s.halting.pc = s.pc + 2 := by simp [State.halting]

/-- Settles O54: `steps_of_halted` keeps pc and MEM through the wait, so KEYS finds the `Fx0A` and its register. -/
theorem waitForKeyIsResolvedIntoVx : Obligations.WaitForKeyIsResolvedIntoVx := by
  intro s x k mask hrun hkeys hd hm
  obtain ⟨u, hsteps, hwait⟩ := steps_of_halted k (s := s.halting) rfl
  have hframe := (unchanged_halting s).trans (hwait.mono fun _ h => .inr (.inr h))
  have hhalt : u.HALT = true := hwait .halt (by simp)
  have hpc : u.pc = s.pc + 2 := (hwait .pc (by simp)).trans s.halting_pc
  have hx : u.pendingX = x := by
    have hback : u.pc - 2 = s.pc := by rw [hpc]; exact BitVec.add_sub_cancel _ _
    have hword : u.memRead2 (u.pc - 2) = s.fetched := by rw [hback]; exact hframe.memRead2_eq (by simp) s.pc
    exact State.pendingX_eq_of_decode (hword ▸ hd)
  refine ⟨u, ⟨_, step_eq_halting hrun hkeys hd, hsteps⟩, hhalt, hpc, hframe, ?_⟩
  rw [State.updateKeys_of_waiting hhalt hm, ← hx]
  exact ⟨u.resolved_HALT mask, (u.resolved_pc mask).trans hpc, u.resolved_KEYS mask, u.readV_pendingX_resolved mask,
    (unchanged_resolved mask u).mono fun _ => or_left_comm.mp⟩

end Sys2Proof.Machine
end

section
/-! PROOFS: the DIAG report (R181, R182). A STEP emits an event in one of its three cases only (`cycle_cases`); what a sequence
of transactions emits (`Block.events`) is a function of the block it starts from and of the sequence, not of any trace. -/

namespace Sys2Proof.Machine

/-- A word that decodes to no instruction is rejected with some error (R78). -/
theorem not_decodes_iff {w : Word} : (∀ i, decodeWord w ≠ .ok i) ↔ ∃ e, decodeWord w = .error e := by
  cases h : decodeWord w <;> simp

theorem stepAt_of_illegal (p q : Nat) {s : State} (hrun : s.HALT = false) (hill : ∀ i, decodeWord s.fetched ≠ .ok i) :
    stepAt p q s = .next (s.timerUpdate p q).advancePc := by
  obtain ⟨e, he⟩ := not_decodes_iff.mp hill
  simp [stepAt_eq, hrun, execute, he]

/-- A STEP emits an event in the last of the three cases of `cycle_cases` only. -/
theorem diagAt_eq_some_iff {p q : Nat} {s : State} {e : DiagEvent} :
    diagAt p q s = some e ↔ s.HALT = false ∧ (∀ i, decodeWord s.fetched ≠ .ok i) ∧ e = ⟨s.pc, s.fetched⟩ := by
  rcases cycle_cases p q s with ⟨hh, hc⟩ | ⟨-, i, hi, hc⟩ | ⟨hrun, err, herr, hc⟩
  · simp [diagAt, hc, hh]
  · simp [diagAt, hc, hi]
  · simp [diagAt, hc, hrun, herr, eq_comm]

/-- Settles O14: the event stands beside the state after the timer update, in which only pc moves on. -/
theorem illegalWordIsReportedAndSkipped : Obligations.IllegalWordIsReportedAndSkipped := fun s p q hrun hill =>
  ⟨_, stepAt_of_illegal p q hrun hill, diagAt_eq_some_iff.mpr ⟨hrun, hill, rfl⟩, by simp, unchanged_advancePc _⟩

/-! ## The trace of a sequence of transactions -/

/-- The events that a sequence of transactions puts on the DIAG output, oldest first. -/
def Block.events : List Transaction → Block → List DiagEvent
  | [], _ => []
  | x :: xs, b => (b.emits x).toList ++ Block.events xs (b.after x)

/-- Recording leaves the block's course alone and appends what the block emits, whatever stands in the trace. -/
theorem Recording.afterAll_eq (xs : List Transaction) (b : Block) (l : List DiagEvent) :
    Recording.afterAll xs ⟨b, l⟩ = ⟨Block.afterAll xs b, l ++ Block.events xs b⟩ := by
  induction xs generalizing b l with
  | nil => simp [Recording.afterAll, Block.afterAll, Block.events]
  | cons x xs ih => simp [Recording.afterAll, Recording.after, Block.afterAll, Block.events, ih]

/-- A transaction emits at most one event, and only a STEP emits (R181, R5). -/
theorem Block.length_emits_le (x : Transaction) (b : Block) :
    (b.emits x).toList.length ≤ if x = .step then 1 else 0 := by
  cases x with
  | step => cases b.emits .step <;> simp
  | init | keys | frame => exact Nat.zero_le _

theorem Block.length_events_le (xs : List Transaction) (b : Block) : (Block.events xs b).length ≤ xs.count .step := by
  induction xs generalizing b with
  | nil => exact Nat.zero_le _
  | cons x xs ih =>
    have hx := b.length_emits_le x
    have hxs := ih (b.after x)
    simp only [Block.events, List.length_append, List.count_cons, beq_iff_eq]
    omega

/-- Settles O18: `Block.events` is the list by which every trace grows. -/
theorem diagEventsAreWriteOnly : Obligations.DiagEventsAreWriteOnly :=
  ⟨fun _ _ _ _ => diagAt_eq_some_iff, fun b xs =>
    ⟨Block.events xs b, Block.length_events_le xs b, Recording.afterAll_eq xs b⟩⟩

end Sys2Proof.Machine
end

section
/-! PROOFS: the timer envelope (R185 to R187). An update in milliseconds is one in units of 1/(3q) ms. At STEP_MS = 2 each
update holds the ticks that `ticksFrom` counts (`State.timerUpdate_ticks`); no instruction writes ACC, so k STEPs hold the
ticks of k updates (`Steps.acc_eq`), and no instruction runs while Halted, so the timers fall by them too. -/

namespace Sys2Proof.Machine

/-! ## A tick (R186) -/

/-- A decrement if nonzero is the truncated decrement of the number. -/
theorem toNat_decrement_if_nonzero (v : Byte) : (if v ≠ 0 then v - 1 else v).toNat = v.toNat - 1 := by
  split <;> bv_omega

theorem State.tick_DT_toNat (s : State) : s.tick.DT.toNat = s.DT.toNat - 1 := toNat_decrement_if_nonzero s.DT
theorem State.tick_ST_toNat (s : State) : s.tick.ST.toNat = s.ST.toNat - 1 := toNat_decrement_if_nonzero s.ST

/-- Settles O20: both timers are decremented in the one way of `toNat_decrement_if_nonzero`. -/
theorem tickDecrementsEachNonzeroTimer : Obligations.TickDecrementsEachNonzeroTimer :=
  fun s => ⟨s.tick_DT_toNat, s.tick_ST_toNat, unchanged_tick s⟩

/-! ## ACC in milliseconds (R28, R185) -/

section
variable {q : Nat} (hq : 0 < q)
include hq

theorem State.accMs_neg_iff (s : State) : s.accMs q < 0 ↔ s.ACC < 0 := by
  have hden : (0 : Rat) < 3 * q := by positivity
  rw [State.accMs, div_lt_iff₀ hden, zero_mul, Int.cast_lt_zero]

/-- STEP_MS = p/q is 3p units. -/
theorem State.accMs_sub (p : Nat) (s : State) :
    (s.setAcc (s.ACC - 3 * (p : Int))).accMs q = s.accMs q - (p : Rat) / q := by
  simp only [State.accMs, State.setAcc_ACC]
  push_cast
  field_simp

/-- The reload of 50/3 ms is 50q units. -/
theorem State.accMs_reload (a : Int) (s : State) :
    (s.setAcc (a + 50 * (q : Int))).accMs q = (s.setAcc a).accMs q + 50 / 3 := by
  simp only [State.accMs, State.setAcc_ACC]
  push_cast
  field_simp

end

/-- Settles O21: the two cases of `State.timerUpdate_cases` are those of the sign of `a`, read in milliseconds. -/
theorem timerUpdateIsExactInMilliseconds : Obligations.TimerUpdateIsExactInMilliseconds := by
  intro s p q hq t a
  have ha : a = (s.setAcc (s.ACC - 3 * (p : Int))).accMs q := (State.accMs_sub hq p s).symm
  have hneg : a < 0 ↔ s.ACC - 3 * (p : Int) < 0 := ha ▸ State.accMs_neg_iff hq _
  refine ⟨fun h => ?_, fun h => ?_, unchanged_timerUpdate p q s⟩
  · have ht : t = s.tick.setAcc (s.ACC - 3 * (p : Int) + 50 * (q : Int)) := if_pos (hneg.mp h)
    rw [ht, ha]
    exact ⟨State.accMs_reload hq _ _, rfl, rfl⟩
  · have ht : t = s.setAcc (s.ACC - 3 * (p : Int)) := if_neg (hneg.not.mp (not_lt.mpr h))
    rw [ht, ha]
    exact ⟨rfl, rfl, rfl⟩

/-! ## The schedule of ticks at STEP_MS = 2 (R187) -/

theorem ticksFrom_zero {a : Nat} : ticksFrom a 0 = 0 := by unfold ticksFrom; omega

/-- From the full accumulator, INIT's, the schedule is that of R187. -/
theorem ticksFrom_full (k : Nat) : ticksFrom 50 k = ticksIn k := by unfold ticksFrom ticksIn; omega

/-- The period of 25 STEPs holds 3 ticks (R187). -/
theorem ticksFrom_period {a : Nat} (h : a < 50) : ticksFrom a 25 = 3 := by unfold ticksFrom; omega

theorem ticksFrom_succ_of_le {a : Nat} (h : 6 ≤ a) (k : Nat) : ticksFrom a (k + 1) = ticksFrom (a - 6) k := by
  unfold ticksFrom; omega

theorem ticksFrom_succ_of_lt {a : Nat} (h : a < 6) (k : Nat) : ticksFrom a (k + 1) = 1 + ticksFrom (a + 44) k := by
  unfold ticksFrom; omega

/-- One timer update holds no tick or one, lowers the timers by it, and leaves the accumulator whose schedule is the rest. -/
theorem State.timerUpdate_ticks {s : State} (hs : s.accInRange 1) :
    let u := s.timerUpdate stepMsNum stepMsDen
    ∃ n : Nat, u.ACC = s.ACC - 6 + 50 * (n : Int) ∧ u.DT.toNat = s.DT.toNat - n ∧ u.ST.toNat = s.ST.toNat - n ∧
      ∀ k, ticksFrom s.ACC.toNat (k + 1) = n + ticksFrom u.ACC.toNat k := by
  obtain ⟨hlo, -⟩ := hs
  rcases State.timerUpdate_cases stepMsNum stepMsDen s with ⟨hacc, hu⟩ | ⟨hacc, hu⟩ <;>
    simp only [stepMsNum, stepMsDen] at hacc hu ⊢ <;> rw [hu]
  · refine ⟨0, by simp, rfl, rfl, fun k => ?_⟩
    rw [ticksFrom_succ_of_le (by omega), State.setAcc_ACC, Nat.zero_add]
    congr 1
    omega
  · refine ⟨1, by simp, s.tick_DT_toNat, s.tick_ST_toNat, fun k => ?_⟩
    rw [ticksFrom_succ_of_lt (by omega), State.setAcc_ACC]
    congr 2
    omega

/-! ## Runs of STEPs -/

theorem steps_complete (k : Nat) (s : State) : ∃ t, Steps k s t := by
  induction k generalizing s with
  | zero => exact ⟨s, rfl⟩
  | succ k ih =>
    obtain ⟨u, hu⟩ := everyStepCompletes s stepMsNum stepMsDen
    obtain ⟨t, ht⟩ := ih u
    exact ⟨t, u, hu, ht⟩

/-- Only the timer update of a STEP moves ACC (R28). -/
theorem stepAt_ACC {p q : Nat} {s t : State} (h : stepAt p q s = .next t) : t.ACC = (s.timerUpdate p q).ACC := by
  rcases stepAt_cases p q s with ⟨-, hc⟩ | ⟨-, i, -, hc⟩ | ⟨-, e, -, hc⟩ <;> rw [hc] at h
  · obtain rfl := Host.Outcome.next.inj h
    rfl
  · rcases exec_cases h with hkeep | ⟨x, -, -, rfl⟩
    · exact hkeep.acc
    · rfl
  · obtain rfl := Host.Outcome.next.inj h
    rfl

theorem step_keeps_accInRange {s t : State} (h : step s = .next t) (hs : s.accInRange 1) : t.accInRange 1 := by
  rw [State.accInRange, stepAt_ACC h]
  exact State.accInRange_timerUpdate (by decide) hs

/-- Whatever the program does, k STEPs put ACC where the ticks of k timer updates put it. -/
theorem Steps.acc_eq {k : Nat} {s t : State} (h : Steps k s t) (hs : s.accInRange 1) :
    t.ACC = s.ACC - 6 * (k : Int) + 50 * (ticksFrom s.ACC.toNat k : Int) := by
  induction k generalizing s with
  | zero => simp [show t = s from h, ticksFrom_zero]
  | succ k ih =>
    obtain ⟨u, hstep, hrest⟩ := h
    obtain ⟨n, hacc, -, -, hticks⟩ := State.timerUpdate_ticks hs
    rw [← stepAt_ACC hstep] at hacc hticks
    rw [ih hrest (step_keeps_accInRange hstep hs), hacc, hticks, hacc]
    push_cast
    ring

/-- While Halted no instruction writes the timers, so k STEPs lower them by the ticks of k timer updates. -/
theorem Steps.timers_of_halted {k : Nat} {s t : State} (h : Steps k s t) (hhalt : s.HALT = true)
    (hs : s.accInRange 1) :
    t.DT.toNat = s.DT.toNat - ticksFrom s.ACC.toNat k ∧ t.ST.toNat = s.ST.toNat - ticksFrom s.ACC.toNat k := by
  induction k generalizing s with
  | zero => simp [show t = s from h, ticksFrom_zero]
  | succ k ih =>
    obtain ⟨u, hstep, hrest⟩ := h
    obtain ⟨n, -, hdt, hst, hticks⟩ := State.timerUpdate_ticks hs
    obtain rfl := Host.Outcome.next.inj ((stepAt_of_halted _ _ hhalt).symm.trans hstep)
    obtain ⟨hdt', hst'⟩ := ih hrest (stepAt_keeps_halted hstep hhalt) (step_keeps_accInRange hstep hs)
    rw [hticks, ← Nat.sub_sub, ← Nat.sub_sub, ← hdt, ← hst]
    exact ⟨hdt', hst'⟩

/-- Settles O22: `Steps.acc_eq` from the full accumulator. -/
theorem tickScheduleIsFixedByTheStepCount : Obligations.TickScheduleIsFixedByTheStepCount := by
  intro s k hfull _
  obtain ⟨t, hsteps⟩ := steps_complete k s
  have hacc := hsteps.acc_eq (by simp [State.accInRange, hfull])
  rw [hfull, show (50 : Int).toNat = 50 from rfl, ticksFrom_full] at hacc
  exact ⟨t, hsteps, hacc⟩

/-- Settles O23: a Halted run completes with its frame, and its ticks are those of its timer updates. -/
theorem haltedTimersFollowTheSchedule : Obligations.HaltedTimersFollowTheSchedule := by
  intro s k hhalt hs n
  obtain ⟨t, hsteps, hframe⟩ := steps_of_halted k hhalt
  obtain ⟨hdt, hst⟩ := hsteps.timers_of_halted hhalt hs
  exact ⟨t, hsteps, (hframe .halt (by simp)).trans hhalt, hsteps.acc_eq hs, hdt, hst, hframe⟩

/-- Settles O24: 25 STEPs subtract 150 units and their 3 ticks add them back. -/
theorem envelopeRepeatsEvery25Steps : Obligations.EnvelopeRepeatsEvery25Steps := by
  intro s hlo hhi
  obtain ⟨t, hsteps⟩ := steps_complete 25 s
  have hacc := hsteps.acc_eq ⟨hlo, by omega⟩
  rw [ticksFrom_period (by omega)] at hacc
  exact ⟨t, hsteps, by omega⟩

end Sys2Proof.Machine
end

section
/-! PROOFS: which ROMs INIT admits (R201, decision D10). `Block.init_oversized` is the refusing side of the bound; here are
the block that the refusal leaves and the admitting side. -/

namespace Sys2Proof.Machine

/-- An oversized INIT loses whatever state the block had (R201). -/
theorem Block.after_oversized {rom : List Byte} (h : 3584 < rom.length) (b : Block) :
    Block.after (.init rom) b = .uninit b.draws := by
  rw [Block.after, transact, Block.init_oversized h]

/-- INIT of a ROM that fits answers the state of R33, whatever the block was (R204). -/
theorem Block.init_fits {rom : List Byte} (h : rom.length ≤ 3584) (b : Block) :
    b.init rom = .next (.ready (State.initialise font stepMsDen rom b.draws)) :=
  if_pos ((Rom.wellFormed_iff rom).mpr h)

/-- Settles O3: the two sides of the bound, `transact` on an INIT being `Block.init`. -/
theorem initRefusesOnlyAnOversizedRom : Obligations.InitRefusesOnlyAnOversizedRom :=
  fun _ b => ⟨fun h => ⟨Block.init_oversized h b, Block.after_oversized h b⟩, fun h => Block.init_fits h b⟩

end Sys2Proof.Machine
end
